-- ==== Sys2Proof/Word.lean ====
section
/-!
DEFINITION. The machine's words: what the spec moves as bits (00_scope.md R9).
-/
namespace Sys2Proof

/-- A command word and every register are 32 bits (R9). -/
abbrev Word := BitVec 32

/-- A framebuffer element and a source-memory element are 8-bit bytes (R9). -/
abbrev Byte := BitVec 8

/-- A coordinate, width, height or radius field of an operand word is 16 bits (R9). -/
abbrev Half := BitVec 16

/-- A colour is 1 bit (R9): `true` is 1, a set pixel, and `false` is 0, an unset one (00_scope.md section 6). -/
abbrev Colour := Bool

/-- A logical pixel `(x, y)`: a pair of exact integers (R10, R50). -/
abbrev Pixel := Int × Int

end Sys2Proof
end

