-- ==== Sys2Proof/Syntax.lean ====
section
/-!
DEFINITION. The command set GFRC-CMD version 1: the sixteen commands of 30_encoding.md R86 as one inductive, with their
operands as the integers and names the rules speak of (R82 to R84).
-/
namespace Sys2Proof

/-- Bitmap rotation of BLITX, header field ROT (R84). -/
inductive BitmapRot where
  | r0 | ccw | r180 | cw
deriving DecidableEq, Repr

/-- Bitmap flip of BLITX, header field FLIP (R84). -/
inductive Flip where
  | noflip | flipH | flipV | flipHV
deriving DecidableEq, Repr

/-- The sixteen commands (R86). Coordinates, sizes and radii are sign-extended 16-bit fields (R82, R83), so integers.
An address is an unsigned 32-bit word. `WellFormed` says which integers have an encoding. -/
inductive Instr where
  | clear
  | setfg (fg : Colour)
  | setfgbg (fg bg : Colour)
  | setpixel (x y : Int)
  | getpixel (x y : Int)
  | line (x0 y0 x1 y1 : Int)
  | rect (x y w h : Int)
  | fillrect (x y w h : Int)
  | roundrect (x y w h r : Int)
  | fillroundrect (x y w h r : Int)
  | circle (x0 y0 r : Int)
  | fillcircle (x0 y0 r : Int)
  | triangle (x0 y0 x1 y1 x2 y2 : Int)
  | filltriangle (x0 y0 x1 y1 x2 y2 : Int)
  | blit (x y w h : Int) (addr : Nat)
  | blitx (x y w h : Int) (addr : Nat) (rot : BitmapRot) (flip : Flip)
deriving DecidableEq, Repr

/-- The sixteen opcodes, by name (R86). -/
inductive Op where
  | clear | setfg | setfgbg | setpixel | getpixel | line | rect | fillrect | roundrect | fillroundrect
  | circle | fillcircle | triangle | filltriangle | blit | blitx
deriving DecidableEq, Repr

/-- The opcode of a command. -/
def Instr.op : Instr → Op
  | .clear => .clear
  | .setfg _ => .setfg
  | .setfgbg _ _ => .setfgbg
  | .setpixel _ _ => .setpixel
  | .getpixel _ _ => .getpixel
  | .line _ _ _ _ => .line
  | .rect _ _ _ _ => .rect
  | .fillrect _ _ _ _ => .fillrect
  | .roundrect _ _ _ _ _ => .roundrect
  | .fillroundrect _ _ _ _ _ => .fillroundrect
  | .circle _ _ _ => .circle
  | .fillcircle _ _ _ => .fillcircle
  | .triangle _ _ _ _ _ _ => .triangle
  | .filltriangle _ _ _ _ _ _ => .filltriangle
  | .blit _ _ _ _ _ => .blit
  | .blitx _ _ _ _ _ _ _ => .blitx

/-- Operand word formats (R82): point, size, radius, address. -/
inductive OperandKind where
  | point | size | radius | address
deriving DecidableEq, Repr

/-- The command errors of 60_exceptions.md R190. -/
inductive CmdErr where
  | illegalOpcode | reservedHeader | reservedOperand
deriving DecidableEq, Repr

/-- The STATUS.ERRCODE value of a command error (R190). -/
def CmdErr.code : CmdErr → BitVec 4
  | .illegalOpcode => 1
  | .reservedHeader => 2
  | .reservedOperand => 3

end Sys2Proof
end

