-- ==== Sys2Proof/Machine/Operands.lean ====
section
/-!
DEFINITION. Operand words and header fields: every operand form of 30_encoding.md R82 to R84, both ways, and the byte
order of a word on a byte-wide bus (20_memory.md R62).
-/
namespace Sys2Proof.Machine

/-- Bits `[15:0]` of a word. -/
def loHalf (w : Word) : Half := w.extractLsb' 0 16

/-- Bits `[31:16]` of a word. -/
def hiHalf (w : Word) : Half := w.extractLsb' 16 16

/-- `sext_16` of 00_scope.md R11: a 16-bit field read as two's complement. -/
def sext16 (v : Half) : Int := v.toInt

/-- The first integer of a P or S operand word (X or W), also the radius of an R operand word (R82). -/
def fieldLo (w : Word) : Int := sext16 (loHalf w)

/-- The second integer of a P or S operand word (Y or H) (R82). -/
def fieldHi (w : Word) : Int := sext16 (hiHalf w)

/-- The address of an A operand word: the whole word, unsigned (R82, R83). -/
def fieldAddr (w : Word) : Nat := w.toNat

/-- Whether an operand word of the given format has no reserved bit set: only R words have any, `[31:16]` (R88). -/
def operandOk (k : OperandKind) (w : Word) : Bool :=
  match k with
  | .point => true
  | .size => true
  | .radius => hiHalf w == 0
  | .address => true

/-- The P or S operand word of two integers (R82). -/
def packPair (lo hi : Int) : Word := BitVec.ofInt 16 hi ++ BitVec.ofInt 16 lo

/-- The R operand word of a radius (R82): the upper half is 0. -/
def packRadius (r : Int) : Word := (0 : Half) ++ BitVec.ofInt 16 r

/-- The A operand word of an address (R82). -/
def packAddr (a : Nat) : Word := BitVec.ofNat 32 a

/-- Header bit `[8]`, FG of formats HF and HFB (R81). -/
def headerFg (h : Word) : Colour := h.getLsbD 8

/-- Header bit `[9]`, BG of format HFB (R81). -/
def headerBg (h : Word) : Colour := h.getLsbD 9

/-- Header field `[9:8]`, ROT of format HT (R81, R84). -/
def headerRot (h : Word) : BitmapRot :=
  match h.getLsbD 9, h.getLsbD 8 with
  | false, false => .r0
  | false, true => .ccw
  | true, false => .r180
  | true, true => .cw

/-- Header field `[11:10]`, FLIP of format HT: `[10]` horizontal, `[11]` vertical (R81, R84). -/
def headerFlip (h : Word) : Flip :=
  match h.getLsbD 11, h.getLsbD 10 with
  | false, false => .noflip
  | false, true => .flipH
  | true, false => .flipV
  | true, true => .flipHV

/-- A colour as header bit number `i`. -/
def colourBit (c : Colour) (i : Nat) : Word := if c then 1#32 <<< i else 0

/-- The header bits of a bitmap rotation (R84). -/
def rotBits : BitmapRot → Word
  | .r0 => 0x000
  | .ccw => 0x100
  | .r180 => 0x200
  | .cw => 0x300

/-- The header bits of a flip (R84). -/
def flipBits : Flip → Word
  | .noflip => 0x000
  | .flipH => 0x400
  | .flipV => 0x800
  | .flipHV => 0xC00

/-- Whether a flip mirrors left-right, `FLIP[0]` (R84, R172). -/
def flipsH : Flip → Bool
  | .noflip => false
  | .flipH => true
  | .flipV => false
  | .flipHV => true

/-- Whether a flip mirrors top-bottom, `FLIP[1]` (R84, R172). -/
def flipsV : Flip → Bool
  | .noflip => false
  | .flipH => false
  | .flipV => true
  | .flipHV => true

/-- The four bytes of a word on a byte-wide bus, byte 0 = bits `[7:0]` first (R62). -/
def bytesOfWord (w : Word) : List Byte :=
  [w.extractLsb' 0 8, w.extractLsb' 8 8, w.extractLsb' 16 8, w.extractLsb' 24 8]

/-- The words a byte-wide bus carries, least significant byte first (R62), with the bytes left over. -/
def wordsOfBytes : List Byte → List Word × List Byte
  | b0 :: b1 :: b2 :: b3 :: rest =>
      let r := wordsOfBytes rest
      ((b3 ++ b2 ++ b1 ++ b0) :: r.1, r.2)
  | left => ([], left)

end Sys2Proof.Machine
end

