-- ==== Sys2Proof/WellFormed.lean ====
section
/-!
DEFINITION. Which commands have an encoding: the operand ranges the assembler of 30_encoding.md R92 accepts.
-/
namespace Sys2Proof

/-- A coordinate, width, height or radius has an encoding from -32768 to 32767 (R9, R92). -/
def coordOk (v : Int) : Bool := decide (-32768 ≤ v ∧ v ≤ 32767)

/-- An address has an encoding from 0 to 2^32 - 1 (R9, R92). -/
def addrOk (a : Nat) : Bool := decide (a < 4294967296)

/-- Every operand is inside its field (R92). Colours, rotations and flips have no other values (R84). -/
def WellFormed : Instr → Bool
  | .clear => true
  | .setfg _ => true
  | .setfgbg _ _ => true
  | .setpixel x y => coordOk x && coordOk y
  | .getpixel x y => coordOk x && coordOk y
  | .line x0 y0 x1 y1 => coordOk x0 && coordOk y0 && coordOk x1 && coordOk y1
  | .rect x y w h => coordOk x && coordOk y && coordOk w && coordOk h
  | .fillrect x y w h => coordOk x && coordOk y && coordOk w && coordOk h
  | .roundrect x y w h r => coordOk x && coordOk y && coordOk w && coordOk h && coordOk r
  | .fillroundrect x y w h r => coordOk x && coordOk y && coordOk w && coordOk h && coordOk r
  | .circle x0 y0 r => coordOk x0 && coordOk y0 && coordOk r
  | .fillcircle x0 y0 r => coordOk x0 && coordOk y0 && coordOk r
  | .triangle x0 y0 x1 y1 x2 y2 =>
      coordOk x0 && coordOk y0 && coordOk x1 && coordOk y1 && coordOk x2 && coordOk y2
  | .filltriangle x0 y0 x1 y1 x2 y2 =>
      coordOk x0 && coordOk y0 && coordOk x1 && coordOk y1 && coordOk x2 && coordOk y2
  | .blit x y w h addr => coordOk x && coordOk y && coordOk w && coordOk h && addrOk addr
  | .blitx x y w h addr _ _ => coordOk x && coordOk y && coordOk w && coordOk h && addrOk addr

end Sys2Proof
end

