-- ==== Sys2Proof/Decode.lean ====
section
/-!
DEFINITION. The decoder of 30_encoding.md: opcode map, match and mask (R86, R87), reserved encodings rejected by name
(R88), packets to commands (R80 to R84). After it the encoder, from the same tables.
-/
namespace Sys2Proof

open Sys2Proof.Machine

/-- Why a list of words is no packet: a command error of R190, or too few words. -/
inductive DecodeError where
  /-- A malformed header or operand word (R88). -/
  | cmd (e : CmdErr)
  /-- The words end before the packet does (R80). -/
  | incomplete
deriving DecidableEq, Repr

/-- The opcode map of R86, opcode byte to command; `none` is the 240 illegal values (R88). -/
def opOfCode (b : Byte) : Option Op :=
  match b.toNat with
  | 0x01 => some .clear
  | 0x02 => some .setfg
  | 0x03 => some .setfgbg
  | 0x10 => some .setpixel
  | 0x11 => some .getpixel
  | 0x20 => some .line
  | 0x30 => some .rect
  | 0x31 => some .fillrect
  | 0x32 => some .roundrect
  | 0x33 => some .fillroundrect
  | 0x40 => some .circle
  | 0x41 => some .fillcircle
  | 0x50 => some .triangle
  | 0x51 => some .filltriangle
  | 0x60 => some .blit
  | 0x61 => some .blitx
  | _ => none

/-- MATCH of R87. -/
def opMatch : Op → Word
  | .clear => 0x00000001
  | .setfg => 0x00000002
  | .setfgbg => 0x00000003
  | .setpixel => 0x00000010
  | .getpixel => 0x00000011
  | .line => 0x00000020
  | .rect => 0x00000030
  | .fillrect => 0x00000031
  | .roundrect => 0x00000032
  | .fillroundrect => 0x00000033
  | .circle => 0x00000040
  | .fillcircle => 0x00000041
  | .triangle => 0x00000050
  | .filltriangle => 0x00000051
  | .blit => 0x00000060
  | .blitx => 0x00000061

/-- MASK of R87: the bits of a header word that are fixed, opcode and reserved bits. -/
def opMask : Op → Word
  | .clear => 0xFFFFFFFF
  | .setfg => 0xFFFFFEFF
  | .setfgbg => 0xFFFFFCFF
  | .setpixel => 0xFFFFFFFF
  | .getpixel => 0xFFFFFFFF
  | .line => 0xFFFFFFFF
  | .rect => 0xFFFFFFFF
  | .fillrect => 0xFFFFFFFF
  | .roundrect => 0xFFFFFFFF
  | .fillroundrect => 0xFFFFFFFF
  | .circle => 0xFFFFFFFF
  | .fillcircle => 0xFFFFFFFF
  | .triangle => 0xFFFFFFFF
  | .filltriangle => 0xFFFFFFFF
  | .blit => 0xFFFFFFFF
  | .blitx => 0xFFFFF0FF

/-- The operand words of each command, in order: KIND of R90, from the operand column of R86. -/
def opKinds : Op → List OperandKind
  | .clear => []
  | .setfg => []
  | .setfgbg => []
  | .setpixel => [.point]
  | .getpixel => [.point]
  | .line => [.point, .point]
  | .rect => [.point, .size]
  | .fillrect => [.point, .size]
  | .roundrect => [.point, .size, .radius]
  | .fillroundrect => [.point, .size, .radius]
  | .circle => [.point, .radius]
  | .fillcircle => [.point, .radius]
  | .triangle => [.point, .point, .point]
  | .filltriangle => [.point, .point, .point]
  | .blit => [.point, .size, .address]
  | .blitx => [.point, .size, .address]

/-- K of R86: how many operand words follow the header. -/
def opK (op : Op) : Nat := (opKinds op).length

/-- Bits `[7:0]` of a header word, the opcode field OP (R81). -/
def opField (h : Word) : Byte := h.extractLsb' 0 8

/-- The header check of R88: the opcode test first (R194), then the reserved bits. -/
def headerOp (h : Word) : Except CmdErr Op :=
  match opOfCode (opField h) with
  | none => .error .illegalOpcode
  | some op => if h &&& opMask op = opMatch op then .ok op else .error .reservedHeader

/-- The operand words a header asks for, each checked for reserved bits (R88), and the words after them. -/
def takeOperands : List OperandKind → List Word → Except DecodeError (List Word × List Word)
  | [], ws => .ok ([], ws)
  | _ :: _, [] => .error .incomplete
  | k :: ks, w :: ws =>
      if operandOk k w then
        match takeOperands ks ws with
        | .ok (ops, rest) => .ok (w :: ops, rest)
        | .error e => .error e
      else .error (.cmd .reservedOperand)

/-- The command of a header word and operand words 1 to 3 (R82 to R84, R86); a word the command does not have is
not read. -/
def build (op : Op) (h w1 w2 w3 : Word) : Instr :=
  match op with
  | .clear => .clear
  | .setfg => .setfg (headerFg h)
  | .setfgbg => .setfgbg (headerFg h) (headerBg h)
  | .setpixel => .setpixel (fieldLo w1) (fieldHi w1)
  | .getpixel => .getpixel (fieldLo w1) (fieldHi w1)
  | .line => .line (fieldLo w1) (fieldHi w1) (fieldLo w2) (fieldHi w2)
  | .rect => .rect (fieldLo w1) (fieldHi w1) (fieldLo w2) (fieldHi w2)
  | .fillrect => .fillrect (fieldLo w1) (fieldHi w1) (fieldLo w2) (fieldHi w2)
  | .roundrect => .roundrect (fieldLo w1) (fieldHi w1) (fieldLo w2) (fieldHi w2) (fieldLo w3)
  | .fillroundrect => .fillroundrect (fieldLo w1) (fieldHi w1) (fieldLo w2) (fieldHi w2) (fieldLo w3)
  | .circle => .circle (fieldLo w1) (fieldHi w1) (fieldLo w2)
  | .fillcircle => .fillcircle (fieldLo w1) (fieldHi w1) (fieldLo w2)
  | .triangle => .triangle (fieldLo w1) (fieldHi w1) (fieldLo w2) (fieldHi w2) (fieldLo w3) (fieldHi w3)
  | .filltriangle => .filltriangle (fieldLo w1) (fieldHi w1) (fieldLo w2) (fieldHi w2) (fieldLo w3) (fieldHi w3)
  | .blit => .blit (fieldLo w1) (fieldHi w1) (fieldLo w2) (fieldHi w2) (fieldAddr w3)
  | .blitx =>
      .blitx (fieldLo w1) (fieldHi w1) (fieldLo w2) (fieldHi w2) (fieldAddr w3) (headerRot h) (headerFlip h)

/-- Decode the packet at the front of a list of words, with the words after it. -/
def decode : List Word → Except DecodeError (Instr × List Word)
  | [] => .error .incomplete
  | h :: ws =>
      match headerOp h with
      | .error e => .error (.cmd e)
      | .ok op =>
          match takeOperands (opKinds op) ws with
          | .error e => .error e
          | .ok (ops, rest) => .ok (build op h (ops.getD 0 0) (ops.getD 1 0) (ops.getD 2 0), rest)

/-- Decode the packet at the front of any bytes of a byte-wide bus (R62). -/
def decodeBytes (bs : List Byte) : Except DecodeError (Instr × List Word) := decode (wordsOfBytes bs).1

/-- The header word of a command: MATCH of R87 with its header fields (R81, R84). -/
def encodeHeader : Instr → Word
  | .setfg fg => opMatch .setfg ||| colourBit fg 8
  | .setfgbg fg bg => opMatch .setfgbg ||| colourBit fg 8 ||| colourBit bg 9
  | .blitx _ _ _ _ _ rot flip => opMatch .blitx ||| rotBits rot ||| flipBits flip
  | .clear => opMatch .clear
  | .setpixel _ _ => opMatch .setpixel
  | .getpixel _ _ => opMatch .getpixel
  | .line _ _ _ _ => opMatch .line
  | .rect _ _ _ _ => opMatch .rect
  | .fillrect _ _ _ _ => opMatch .fillrect
  | .roundrect _ _ _ _ _ => opMatch .roundrect
  | .fillroundrect _ _ _ _ _ => opMatch .fillroundrect
  | .circle _ _ _ => opMatch .circle
  | .fillcircle _ _ _ => opMatch .fillcircle
  | .triangle _ _ _ _ _ _ => opMatch .triangle
  | .filltriangle _ _ _ _ _ _ => opMatch .filltriangle
  | .blit _ _ _ _ _ => opMatch .blit

/-- The operand words of a command (R82, R86). -/
def encodeOperands : Instr → List Word
  | .clear => []
  | .setfg _ => []
  | .setfgbg _ _ => []
  | .setpixel x y => [packPair x y]
  | .getpixel x y => [packPair x y]
  | .line x0 y0 x1 y1 => [packPair x0 y0, packPair x1 y1]
  | .rect x y w h => [packPair x y, packPair w h]
  | .fillrect x y w h => [packPair x y, packPair w h]
  | .roundrect x y w h r => [packPair x y, packPair w h, packRadius r]
  | .fillroundrect x y w h r => [packPair x y, packPair w h, packRadius r]
  | .circle x0 y0 r => [packPair x0 y0, packRadius r]
  | .fillcircle x0 y0 r => [packPair x0 y0, packRadius r]
  | .triangle x0 y0 x1 y1 x2 y2 => [packPair x0 y0, packPair x1 y1, packPair x2 y2]
  | .filltriangle x0 y0 x1 y1 x2 y2 => [packPair x0 y0, packPair x1 y1, packPair x2 y2]
  | .blit x y w h addr => [packPair x y, packPair w h, packAddr addr]
  | .blitx x y w h addr _ _ => [packPair x y, packPair w h, packAddr addr]

/-- The packet of a command (R80): its header word, then its operand words. -/
def encode (i : Instr) : List Word := encodeHeader i :: encodeOperands i

/-- The words of a packet given as one number: bit 0 is bit 0 of the header, a later word's bits count on from it, and
every bit from `nbits` up is 0. As many words as the header asks for; one where it asks for none or is malformed. -/
def tableWords (nbits w : Nat) : List Word :=
  let v := w % 2 ^ nbits
  let n := match headerOp (BitVec.ofNat 32 v) with
    | .ok op => 1 + opK op
    | .error _ => 1
  (List.range n).map fun (j : Nat) => BitVec.ofNat 32 (v >>> (32 * j))

/-- The command the decoder reads from a packet given as one number. -/
def decodeTableWord (nbits w : Nat) : Option Instr :=
  match decode (tableWords nbits w) with
  | .ok (i, _) => some i
  | .error _ => none

end Sys2Proof
end

