-- ==== Sys2Proof/Config.lean ====
section
/-!
DEFINITION. What an implementation fixes (the build parameters NW, NH, ROT, READ_MAP, 00_scope.md R5 to R8) and the
free values: constants with no body, so that no proof can know a value of theirs.
-/
namespace Sys2Proof

/-- A native dimension, 1 to 32767 (R5): `pred` is one less, so that no illegal value exists (R195). -/
structure Dim where
  pred : Fin 32767
deriving DecidableEq, Repr

/-- The dimension in pixels. -/
def Dim.val (d : Dim) : Nat := d.pred.val + 1

/-- The four rotation modes of the build parameter ROT, in the source's order (R7). -/
inductive RotMode where
  | none | ccw90 | rot180 | cw90
deriving DecidableEq, Repr

/-- The number CFG_MODE shows for a rotation mode (R7, R25). -/
def RotMode.code : RotMode → Nat
  | .none => 0
  | .ccw90 => 1
  | .rot180 => 2
  | .cw90 => 3

/-- The build parameter READ_MAP (R8). -/
inductive ReadMap where
  | rotationAware | nativeAlways
deriving DecidableEq, Repr

/-- The number CFG_MODE shows for READ_MAP (R8, R25). -/
def ReadMap.code : ReadMap → Nat
  | .rotationAware => 0
  | .nativeAlways => 1

/-- The build parameters of one GFRC, fixed for its life (R5 to R8, R20). Every value of the type is legal (R195). -/
structure Config where
  nw      : Dim
  nh      : Dim
  rot     : RotMode
  readMap : ReadMap
deriving DecidableEq, Repr

/-- The reference configuration of 00_scope.md section 4: 84 by 48, ROT = 0, READ_MAP = 0.
PRESUMED (the size), log 1: only `State.reset` uses it, every statement is about any configuration. -/
def Config.reference : Config :=
  { nw := ⟨83⟩, nh := ⟨47⟩, rot := .none, readMap := .rotationAware }

/-- The byte a framebuffer address holds when nothing has written it since the reset that made draw `draw`
(R33: every bit unspecified). Free value, log 2. -/
opaque Config.freeFbByte (draw index : Nat) : Byte

/-- The bit GETPIXEL reads at an UNMAPPED point (R71, R123). Free value, log 6. -/
opaque Config.freePixel (draw : Nat) : Bool

/-- The byte the read port answers while BUSY (R59). Free value, log 7. -/
opaque Config.freePortByte (draw : Nat) : Byte

/-- The byte that read number `call` of one blit gives when SrcMem changed under it (R61). Free value, log 5. -/
opaque Config.freeSrcByte (draw call : Nat) : Byte

/-- SrcMem at an address the state does not list: the parameter function of R60. Free value, log 4. -/
opaque Config.srcMem (addr : Nat) : Byte

end Sys2Proof
end

