-- ==== Sys2Proof/Machine/State.lean ====
section
/-!
DEFINITION. The state of the machine: what 10_state.md R20 lists, the build parameters, the agents around the engine
with what they still have to do, and the counters of free draws. Plain data throughout.
-/
namespace Sys2Proof.Machine

/-- A memory: (address, byte) cells. Canonical form: `Memory.wf`. An address that is not listed has no value of its
own: each reader says what it draws there (log 2, log 4). -/
abbrev Memory := List Host.Cell

/-- The canonical form of a memory: addresses strictly rising, so that equal memories are equal lists. No value is an
unlisted address's, so no cell can be a redundant one. -/
abbrev Memory.wf (m : Memory) : Prop := m.Pairwise (fun a b => a.1 < b.1)

/-- Every listed address is below `n`. -/
abbrev Memory.below (n : Nat) (m : Memory) : Prop := ∀ c ∈ m, c.1 < n

/-- The engine's phase (R32). -/
inductive Phase where
  | idle | receiving | executing | halted
deriving DecidableEq, Repr

/-- The fields of STATUS that hold anything (R27); `[3]` and `[31:8]` read 0. -/
structure Status where
  busy    : Bool
  pend    : Bool
  err     : Bool
  errCode : BitVec 4
deriving DecidableEq, Repr

/-- One access of a host to the register space: a register number and, for a write, a whole word (R25). -/
inductive HostAccess where
  | write (n : BitVec 8) (w : Word)
  | read (n : BitVec 8)
deriving DecidableEq, Repr

/-- Which agent acts at a step, and what it does (log 8, log 9). -/
inductive Turn where
  /-- The engine: a command that is EXECUTING performs its effects and finishes (R91). -/
  | engine
  /-- The host makes, or waits with, its next register access (R25, R29). -/
  | host
  /-- Another host reads a register, which no held write delays (R199, R231). -/
  | observer (n : BitVec 8)
  /-- The transport reads framebuffer byte `i` through the read port (R58). -/
  | transport (i : Nat)
  /-- The reset input is asserted (R210). -/
  | reset
  /-- The outside writes byte `b` at source-memory address `a` (R61). -/
  | source (a : Word) (b : Byte)
deriving DecidableEq, Repr

/-- Why a step stops the model. No rule of the spec stops the machine: a command error is a next state (R191). -/
inductive Fault where
  /-- Raised by the engine's turn when PHASE is EXECUTING and PKT holds no legal complete packet. Safe: no rule leads
  to such a state and `Inv` excludes it (log 15). -/
  | noPacket
deriving DecidableEq, Repr

/-- Why an instruction has no meaning. -/
inductive Refusal where
  /-- Raised by an arm of `exec` for an instruction the model gives no meaning. Safe. No arm raises it. -/
  | notModelled (mnemonic : String)
deriving DecidableEq, Repr

/-- The state. `fb` to `phase` are the architectural state of R20. -/
structure State where
  /-- The build parameters (R5 to R8), fixed: no step changes them (R213). -/
  cfg        : Config
  /-- FB, the framebuffer bytes written since the last reset or listed otherwise (R21). -/
  fb         : Memory
  /-- FG, the foreground colour (R22). -/
  fg         : Colour
  /-- BG, the background colour, `none` for NONE (R23). -/
  bg         : Option Colour
  /-- RESULT (R26). -/
  result     : Word
  /-- STATUS (R27). -/
  status     : Status
  /-- ERRWORD (R28). -/
  errWord    : Word
  /-- PKT, the words of the packet received so far; PKT_N is how many (R31). -/
  pkt        : List Word
  /-- PHASE (R32). -/
  phase      : Phase
  /-- The host write to CMD the port holds while a command executes (R29). -/
  held       : Option Word
  /-- The host's register accesses not yet made, in its program order (R66). -/
  host       : List HostAccess
  /-- Who acts at the coming steps; when empty, `nextTurn` says (log 8). -/
  turns      : List Turn
  /-- The listed bytes of SrcMem (R60). -/
  srcMem     : Memory
  /-- Whether SrcMem was written since the running command's start event (R61). -/
  srcMoved   : Bool
  /-- The word the last register read gave a host. The model's own field. -/
  regAnswer  : Option Word
  /-- The byte the last read-port access gave the transport. The model's own field. -/
  portAnswer : Option Byte
  /-- The draw the unlisted framebuffer bytes come from. The model's own field. -/
  fbDraw     : Nat
  /-- The number of the next free draw. The model's own field. -/
  draws      : Nat
deriving DecidableEq, Repr

/-- STATUS when nothing runs, nothing is outstanding and no error occurred (R27, R32 row IDLE). -/
def Status.clear : Status := { busy := false, pend := false, err := false, errCode := 0 }

/-- The machine right after reset (R33), in the reference configuration (log 1), nothing asked of it yet. -/
def State.reset : State :=
  { cfg := Config.reference, fb := [], fg := true, bg := none, result := 0, status := Status.clear, errWord := 0,
    pkt := [], phase := .idle, held := none, host := [], turns := [], srcMem := [], srcMoved := false,
    regAnswer := none, portAnswer := none, fbDraw := 0, draws := 1 }

/-- PKT_N: how many words PKT holds (R31). -/
def State.pktN (s : State) : Nat := s.pkt.length

end Sys2Proof.Machine
end

