-- ==== Sys2Proof/Machine/Flags.lean ====
section
/-!
DEFINITION. The flags: STATUS as a word and its value in each phase (10_state.md R27, R32), and the other words a
register read builds from fields: COLOR (R30), CFG_DIM and CFG_MODE (R25). The GFRC has no condition codes (R36).
-/
namespace Sys2Proof.Machine

/-- A bit as a word, at bit 0. -/
def bitWord (b : Bool) : Word := if b then 1 else 0

/-- STATUS as the host reads it: `[0]` BUSY, `[1]` PEND, `[2]` ERR, `[7:4]` ERRCODE, the rest 0 (R27). -/
def statusWord (f : Status) : Word :=
  bitWord f.busy ||| (bitWord f.pend <<< 1) ||| (bitWord f.err <<< 2) ||| ((f.errCode.setWidth 32) <<< 4)

/-- STATUS while operand words are outstanding (R32 row RECEIVING). -/
def statusReceiving : Status := { busy := false, pend := true, err := false, errCode := 0 }

/-- STATUS while a command runs (R32 row EXECUTING). -/
def statusExecuting : Status := { busy := true, pend := false, err := false, errCode := 0 }

/-- STATUS after a command error (R191, R32 row HALTED). -/
def statusHalted (e : CmdErr) : Status := { busy := false, pend := false, err := true, errCode := e.code }

/-- COLOR: `[0]` FG, `[1]` BGEN, `[2]` BGC (R30). -/
def colorWord (fg : Colour) (bg : Option Colour) : Word :=
  bitWord fg ||| (bitWord bg.isSome <<< 1) ||| (bitWord (bg.getD false) <<< 2)

/-- CFG_DIM: `[15:0]` NW, `[31:16]` NH (R25). -/
def cfgDimWord (c : Config) : Word := BitVec.ofNat 32 c.nw.val ||| (BitVec.ofNat 32 c.nh.val <<< 16)

/-- CFG_MODE: `[1:0]` ROT, `[2]` READ_MAP (R25). -/
def cfgModeWord (c : Config) : Word := BitVec.ofNat 32 c.rot.code ||| (BitVec.ofNat 32 c.readMap.code <<< 2)

/-- RESULT holding a pixel value: `[0]` PIX, `[31:1]` 0 (R26). -/
def resultWord (v : Bool) : Word := bitWord v

end Sys2Proof.Machine
end

