-- ==== Sys2Proof/Machine/Ops.lean ====
section
/-!
DEFINITION. The shared operations: memory, the Coordinate Mapper, the pixel write, the ports, the packet decoder, the
command error (the GFRC's only trap) and the reset that alone leaves it. Meanings and `step` are written over these.
-/
namespace Sys2Proof.Machine

/-! ### Memory -/

/-- The listed byte at an address, or none. -/
def lookup : Memory → Nat → Option Byte
  | [], _ => none
  | (k, v) :: m, a => if k = a then some v else if a < k then none else lookup m a

/-- The memory with `f` applied to the byte at an address, which is `d` if it was not listed. -/
def update (m : Memory) (a : Nat) (d : Byte) (f : Byte → Byte) : Memory :=
  match m with
  | [] => [(a, f d)]
  | (k, v) :: m' =>
      if k = a then (k, f v) :: m' else if a < k then (a, f d) :: (k, v) :: m' else (k, v) :: update m' a d f

/-- The memory of the bytes 0 to `n` - 1, each 0. -/
def zeros (n : Nat) : Memory := (List.range n).map fun (i : Nat) => (i, 0)

/-! ### Framebuffer geometry -/

/-- NW (R5). -/
def nw (c : Config) : Nat := c.nw.val

/-- NH (R5). -/
def nh (c : Config) : Nat := c.nh.val

/-- NG = ceil(NH / 8), the number of row groups (R6). -/
def rowGroups (c : Config) : Nat := (nh c + 7) / 8

/-- FB_BYTES = NG * NW (R6). -/
def fbBytes (c : Config) : Nat := rowGroups c * nw c

/-- LW, the logical width (R54). -/
def logicalW (c : Config) : Nat :=
  match c.rot with
  | .none => nw c
  | .ccw90 => nh c
  | .rot180 => nw c
  | .cw90 => nh c

/-- LH, the logical height (R54). -/
def logicalH (c : Config) : Nat :=
  match c.rot with
  | .none => nh c
  | .ccw90 => nw c
  | .rot180 => nh c
  | .cw90 => nw c

/-- Whether a logical point is in bounds (R55). -/
def inBounds (c : Config) (x y : Int) : Bool :=
  decide (0 ≤ x ∧ x < logicalW c ∧ 0 ≤ y ∧ y < logicalH c)

/-- The byte index and bit offset of a native pixel (R51, R52). -/
def nativeBit (c : Config) (col row : Nat) : Nat × Nat := (col + row / 8 * nw c, row % 8)

/-- The native column a logical point maps to (R55). -/
def nativeCol (c : Config) (x y : Int) : Int :=
  match c.rot with
  | .none => x
  | .ccw90 => logicalH c - y - 1
  | .rot180 => nw c - x - 1
  | .cw90 => y

/-- The native row a logical point maps to (R55). -/
def nativeRow (c : Config) (x y : Int) : Int :=
  match c.rot with
  | .none => y
  | .ccw90 => x
  | .rot180 => nh c - y - 1
  | .cw90 => logicalW c - x - 1

/-- `Map` of R55: the byte index and bit offset of a logical point, none for INVALID. -/
def mapPixel (c : Config) (x y : Int) : Option (Nat × Nat) :=
  if inBounds c x y then some (nativeBit c (nativeCol c x y).toNat (nativeRow c x y).toNat) else none

/-- What `MapRead` gives (R71). -/
inductive ReadTarget where
  | invalid
  | unmapped
  | mapped (byteIndex bitOffset : Nat)
deriving DecidableEq, Repr

/-- `MapRead` of R71: the mapping GETPIXEL reads through. -/
def mapRead (c : Config) (x y : Int) : ReadTarget :=
  if inBounds c x y then
    match c.readMap with
    | .rotationAware =>
        match mapPixel c x y with
        | some (i, b) => .mapped i b
        | none => .invalid
    | .nativeAlways =>
        if x < nw c ∧ y < nh c then
          .mapped (nativeBit c x.toNat y.toNat).1 (nativeBit c x.toNat y.toNat).2
        else .unmapped
  else .invalid

/-! ### Framebuffer bytes and bits -/

/-- A byte with one bit written and the other seven unchanged (R11). -/
def setBit (v : Byte) (b : Nat) (c : Colour) : Byte :=
  if c then v ||| (1#8 <<< b) else v &&& ~~~(1#8 <<< b)

/-- FB[i]. A byte nothing has written since reset is any byte (R33, log 2). -/
def State.fbByte (s : State) (i : Nat) : Byte := (lookup s.fb i).getD (Config.freeFbByte s.fbDraw i)

/-- FB[i][b], bit of weight 2^b (R52). -/
def State.fbBit (s : State) (i b : Nat) : Bool := (s.fbByte i).getLsbD b

/-- `Plot` of R121 on the framebuffer: one bit written, or nothing where the point is out of bounds. -/
def plotFb (c : Config) (draw : Nat) (m : Memory) (p : Pixel × Colour) : Memory :=
  match mapPixel c p.1.1 p.1.2 with
  | none => m
  | some (i, b) => update m i (Config.freeFbByte draw i) (fun v => setBit v b p.2)

/-- The state with `Plot` done for each coloured pixel of a list, in order. -/
def State.plotAll (s : State) (ps : List (Pixel × Colour)) : State :=
  { s with fb := ps.foldl (plotFb s.cfg s.fbDraw) s.fb }

/-- The state with `Plot` in colour `c` done for each pixel of a list, in order. -/
def State.paint (s : State) (ps : List Pixel) (c : Colour) : State := s.plotAll (ps.map fun p => (p, c))

/-- `Plot(x, y, c)` (R121). -/
def State.plot (s : State) (x y : Int) (c : Colour) : State := s.paint [(x, y)] c

/-- The state with another framebuffer. -/
def State.setFb (s : State) (m : Memory) : State := { s with fb := m }

/-- The state with another Draw Color State (R22, R23). -/
def State.setColours (s : State) (fg : Colour) (bg : Option Colour) : State := { s with fg := fg, bg := bg }

/-- The state with another RESULT (R26). -/
def State.setResult (s : State) (w : Word) : State := { s with result := w }

/-! ### Source memory -/

/-- SrcMem at an address below 2^32 (R60, log 4). -/
def State.srcByte (s : State) (a : Nat) : Byte := (lookup s.srcMem a).getD (Config.srcMem a)

/-- `MemRead(addr, 1)`, the read number `call` of the running command: the byte at the address modulo 2^32 (R60), or any
byte if SrcMem was written under the command (R61, log 5). -/
def State.memRead (s : State) (call addr : Nat) : Byte :=
  if s.srcMoved then Config.freeSrcByte s.draws call else s.srcByte (addr % 4294967296)

/-- The outside writes a source byte. -/
def State.writeSource (s : State) (a : Word) (b : Byte) : State :=
  { s with srcMem := update s.srcMem a.toNat b (fun _ => b), srcMoved := true }

/-! ### Read port -/

/-- FB[i] as the read port serves it while no command runs: 0x00 beyond the framebuffer (R58). -/
def State.portByte (s : State) (i : Nat) : Byte := if i < fbBytes s.cfg then s.fbByte i else 0

/-- The transport reads byte `i`: the byte (R58), or any byte while BUSY (R59, log 7). -/
def State.transportRead (s : State) (i : Nat) : State :=
  if s.phase = .executing then
    { s with portAnswer := some (Config.freePortByte s.draws), draws := s.draws + 1 }
  else { s with portAnswer := some (s.portByte i) }

/-! ### The command error, and reset, which alone leaves it -/

/-- `raise CmdError(e, w)` of R191, the GFRC's only trap: the error is recorded, the packet dropped, the engine halts. -/
def cmdError (e : CmdErr) (w : Word) (s : State) : State :=
  { s with status := statusHalted e, errWord := w, pkt := [], phase := .halted }

/-- Reset of R210 and R211. The registers are those of `State.reset` (R33), every framebuffer bit is drawn anew, a held
CMD write completes and is discarded. The configuration and what is outside the GFRC stay (log 10). -/
def hardReset (s : State) : State :=
  { s with
    fb := [], fbDraw := s.draws, draws := s.draws + 1, fg := true, bg := none, result := 0, status := Status.clear,
    errWord := 0, pkt := [], phase := .idle, held := none, srcMoved := false }

/-! ### Packet decoder -/

/-- The start event of R91: the packet in PKT begins to execute. -/
def startCommand (s : State) : State :=
  { s with status := statusExecuting, phase := .executing, srcMoved := false }

/-- The finish event of R91: PHASE IDLE, and PKT_N <- 0 (R90). The next free draws are new ones. -/
def finishCommand (s : State) : State :=
  { s with status := Status.clear, phase := .idle, pkt := [], draws := s.draws + 1 }

/-- KIND of R90 for a packet whose header is `h`. -/
def packetKinds (h : Word) : List OperandKind :=
  match opOfCode (opField h) with
  | some op => opKinds op
  | none => []

/-- PKT after one more word: complete packets start, others wait for operands (R90). -/
def acceptWord (ks : List OperandKind) (pkt : List Word) (s : State) : State :=
  if pkt.length = 1 + ks.length then startCommand { s with pkt := pkt }
  else { s with pkt := pkt, status := statusReceiving, phase := .receiving }

/-- `OnCmdWord(w)` of R90. It is not called while a command executes (R29). -/
def onCmdWord (w : Word) (s : State) : State :=
  if s.phase = .halted then s
  else
    match s.pkt with
    | [] =>
        match headerOp w with
        | .error e => cmdError e w s
        | .ok op => acceptWord (opKinds op) [w] s
    | h :: ws =>
        match (packetKinds h)[ws.length]? with
        | some k =>
            if operandOk k w then acceptWord (packetKinds h) (h :: ws ++ [w]) s
            else cmdError .reservedOperand w s
        | none => acceptWord (packetKinds h) (h :: ws ++ [w]) s

/-- The command of the packet in PKT, or none if PKT holds no legal complete packet. -/
def fetchCommand (s : State) : Option Instr :=
  match decode s.pkt with
  | .ok (i, []) => some i
  | .ok (_, _ :: _) => none
  | .error _ => none

/-! ### Register space -/

/-- The word a read of register `n` gives (R25). -/
def State.readReg (s : State) (n : BitVec 8) : Word :=
  match n.toNat with
  | 1 => statusWord s.status
  | 2 => s.result
  | 3 => s.errWord
  | 4 => cfgDimWord s.cfg
  | 5 => cfgModeWord s.cfg
  | 6 => colorWord s.fg s.bg
  | _ => 0

/-- A host, the one whose writes go to CMD or another, reads register `n`: no side effect on any register (R25). -/
def State.hostRead (s : State) (n : BitVec 8) : State := { s with regAnswer := some (s.readReg n) }

/-- The host writes word `w` to register `n`: CMD takes it, or holds it while a command executes (R29); a write to any
other register is ignored (R25). -/
def hostWrite (n : BitVec 8) (w : Word) (s : State) : State :=
  if n = 0 then
    if s.phase = .executing then { s with held := some w } else onCmdWord w s
  else s

/-- The host's turn: a held write completes as soon as no command executes (R29), and only then does the host make its
next access (R66). -/
def hostTurn (s : State) : State :=
  match s.held with
  | some w => if s.phase = .executing then s else onCmdWord w { s with held := none }
  | none =>
      match s.host with
      | [] => s
      | .read n :: rest => State.hostRead { s with host := rest } n
      | .write n w :: rest => hostWrite n w { s with host := rest }

/-! ### Whose turn -/

/-- Whose turn it is and the state with that turn used up. When nothing is scheduled, a running command finishes, and
otherwise the host acts (log 8). -/
def nextTurn (s : State) : Turn × State :=
  match s.turns with
  | t :: ts => (t, { s with turns := ts })
  | [] => if s.phase = .executing then (.engine, s) else (.host, s)

/-- The state with a packet complete in PKT, its start event just past and the engine's turn next. -/
def placePacket (ws : List Word) (s : State) : State := startCommand { s with pkt := ws, turns := [] }

/-- The state with the host about to write words to CMD before anything else happens. -/
def placeWords (ws : List Word) (s : State) : State :=
  { s with host := ws.map (HostAccess.write 0) ++ s.host, turns := [] }

end Sys2Proof.Machine
end

