-- ==== Sys2Proof/Machine/Blits.lean ====
section
/-!
DEFINITION. The Bitmap Blitter: BLIT and BLITX (46_blit.md).
-/
namespace Sys2Proof.Machine

/-- The transformed image's width `W'` (R172). -/
def xformW (w h : Int) : BitmapRot → Int
  | .r0 => w
  | .ccw => h
  | .r180 => w
  | .cw => h

/-- The transformed image's height `H'` (R172). -/
def xformH (w h : Int) : BitmapRot → Int
  | .r0 => h
  | .ccw => w
  | .r180 => h
  | .cw => w

/-- The rotation half of `Xform` (R172). -/
def rotateOffset (c r w h : Int) : BitmapRot → Int × Int
  | .r0 => (c, r)
  | .ccw => (r, w - 1 - c)
  | .r180 => (w - 1 - c, h - 1 - r)
  | .cw => (h - 1 - r, c)

/-- The flip half of `Xform`, in a frame of width `w'` and height `h'` (R172). -/
def flipOffset (p : Int × Int) (w' h' : Int) (flip : Flip) : Int × Int :=
  (if flipsH flip then w' - 1 - p.1 else p.1, if flipsV flip then h' - 1 - p.2 else p.2)

/-- `Xform(c, r, w, h, rot, flip)` of R172: rotation, then flip in the rotated frame. -/
def xform (c r w h : Int) (rot : BitmapRot) (flip : Flip) : Int × Int :=
  flipOffset (rotateOffset c r w h rot) (xformW w h rot) (xformH w h rot) flip

/-- `SrcBit(addr, w, c, r)` of R171 in an image of width `w`, as memory read number `call` of the command. -/
def State.srcBit (s : State) (call addr w c r : Nat) : Bool := (s.memRead call (addr + c + r / 8 * w)).getLsbD (r % 8)

/-- What a source pixel draws (R175): FG where it is 1, BG where it is 0, nothing where BG is NONE. -/
def blitColour (fg : Colour) (bg : Option Colour) (bit : Bool) : Option Colour := if bit then some fg else bg

/-- The `Plot` calls of BLITX (R175), column by column. -/
def blitPlots (s : State) (x y w h : Int) (addr : Nat) (rot : BitmapRot) (flip : Flip) : List (Pixel × Colour) :=
  if w ≤ 0 ∨ h ≤ 0 then []
  else
    (List.range w.toNat).flatMap fun (c : Nat) =>
      (List.range h.toNat).filterMap fun (r : Nat) =>
        (blitColour s.fg s.bg (s.srcBit (c * h.toNat + r) addr w.toNat c r)).map fun col =>
          ((x + (xform c r w h rot flip).1, y + (xform c r w h rot flip).2), col)

/-- BLITX (R175). -/
def execBlitx (x y w h : Int) (addr : Nat) (rot : BitmapRot) (flip : Flip) (s : State) :
    Host.Outcome State Fault Refusal :=
  .next (s.plotAll (blitPlots s x y w h addr rot flip))

/-- BLIT (R174): BLITX's drawing with no rotation and no flip. -/
def execBlit (x y w h : Int) (addr : Nat) (s : State) : Host.Outcome State Fault Refusal :=
  .next (s.plotAll (blitPlots s x y w h addr .r0 .noflip))

end Sys2Proof.Machine
end

