-- ==== Sys2Proof/Machine/Lines.lean ====
section
/-!
DEFINITION. Spans, LINE, RECT and FILLRECT (42_raster_lines_rects.md). A drawing command is the list of its `Plot` calls
(R124), each in the foreground colour. Clipping is left to `Plot` (R125).
-/
namespace Sys2Proof.Machine

/-- `HSpan(x, y, w)` of R130. -/
def hspan (x y w : Int) : List Pixel := (List.range w.toNat).map fun (i : Nat) => (x + (i : Int), y)

/-- `VSpan(x, y, h)` of R131. -/
def vspan (x y h : Int) : List Pixel := (List.range h.toNat).map fun (j : Nat) => (x, y + (j : Int))

/-- `PSpan(a, b, y)` of R132. -/
def pspan (a b y : Int) : List Pixel := hspan (min a b) y ((b - a).natAbs + 1)

/-- The loop of R133 from major coordinate `x` for the given number of pixels. -/
def lineLoop (steep : Bool) (dx dy ystep : Int) : Nat → Int → Int → Int → List Pixel
  | 0, _, _, _ => []
  | n + 1, x, y, err =>
      (if steep then (y, x) else (x, y)) ::
        (if err - dy < 0 then lineLoop steep dx dy ystep n (x + 1) (y + ystep) (err - dy + dx)
         else lineLoop steep dx dy ystep n (x + 1) y (err - dy))

/-- The loop of R133 with the endpoints in increasing order of the major axis. -/
def lineOrdered (steep : Bool) (x0 y0 x1 y1 : Int) : List Pixel :=
  lineLoop steep (x1 - x0) (y1 - y0).natAbs (if y0 < y1 then 1 else -1) (x1 - x0 + 1).toNat x0 y0 ((x1 - x0) / 2)

/-- R133 after the steepness swap: the endpoints are put in increasing order of the major axis. -/
def lineMajor (steep : Bool) (x0 y0 x1 y1 : Int) : List Pixel :=
  if x0 > x1 then lineOrdered steep x1 y1 x0 y0 else lineOrdered steep x0 y0 x1 y1

/-- R133 without its two degenerate cases. -/
def lineGeneral (x0 y0 x1 y1 : Int) : List Pixel :=
  if (y1 - y0).natAbs > (x1 - x0).natAbs then lineMajor true y0 x0 y1 x1 else lineMajor false x0 y0 x1 y1

/-- The pixels of LINE (R133). -/
def linePixels (x0 y0 x1 y1 : Int) : List Pixel :=
  if x0 = x1 then vspan x0 (min y0 y1) ((y1 - y0).natAbs + 1)
  else if y0 = y1 then hspan (min x0 x1) y0 ((x1 - x0).natAbs + 1)
  else lineGeneral x0 y0 x1 y1

/-- The pixels of RECT (R134). -/
def rectPixels (x y w h : Int) : List Pixel :=
  if w ≤ 0 ∨ h ≤ 0 then []
  else hspan x y w ++ hspan x (y + h - 1) w ++ vspan x y h ++ vspan (x + w - 1) y h

/-- The pixels of FILLRECT (R135). -/
def fillrectPixels (x y w h : Int) : List Pixel :=
  if w ≤ 0 ∨ h ≤ 0 then [] else (List.range h.toNat).flatMap fun (j : Nat) => hspan x (y + (j : Int)) w

/-- LINE (R133). -/
def execLine (x0 y0 x1 y1 : Int) (s : State) : Host.Outcome State Fault Refusal :=
  .next (s.paint (linePixels x0 y0 x1 y1) s.fg)

/-- RECT (R134). -/
def execRect (x y w h : Int) (s : State) : Host.Outcome State Fault Refusal :=
  .next (s.paint (rectPixels x y w h) s.fg)

/-- FILLRECT (R135). -/
def execFillrect (x y w h : Int) (s : State) : Host.Outcome State Fault Refusal :=
  .next (s.paint (fillrectPixels x y w h) s.fg)

end Sys2Proof.Machine
end

