-- ==== Sys2Proof/Machine/Circles.lean ====
section
/-!
DEFINITION. CIRCLE and FILLCIRCLE with their helpers Walk, CornerArc and CornerFill (43_raster_circles.md).
-/
namespace Sys2Proof.Machine

/-- The loop of `Walk` (R140), at most `fuel` passes. -/
def walkLoop : Nat → Int → Int → Int → Int → Int → List (Int × Int)
  | 0, _, _, _, _, _ => []
  | fuel + 1, f, ddx, ddy, x, y =>
      if x < y then
        let y' := if f ≥ 0 then y - 1 else y
        let ddy' := if f ≥ 0 then ddy + 2 else ddy
        let f' := if f ≥ 0 then f + ddy' else f
        (x + 1, y') :: walkLoop fuel (f' + (ddx + 2)) (ddx + 2) ddy' (x + 1) y'
      else []

/-- `Walk(r)` of R140. The list has at most `r` entries, so `r` passes are enough. -/
def walk (r : Int) : List (Int × Int) := walkLoop r.toNat (1 - r) 1 (-2 * r) 0 r

/-- `CornerArc(x0, y0, r, m)` of R141. -/
def cornerArc (x0 y0 r : Int) (m : BitVec 4) : List Pixel :=
  (walk r).flatMap fun p =>
    (if m.getLsbD 0 then [(x0 - p.2, y0 - p.1), (x0 - p.1, y0 - p.2)] else []) ++
    (if m.getLsbD 1 then [(x0 + p.1, y0 - p.2), (x0 + p.2, y0 - p.1)] else []) ++
    (if m.getLsbD 2 then [(x0 + p.1, y0 + p.2), (x0 + p.2, y0 + p.1)] else []) ++
    (if m.getLsbD 3 then [(x0 - p.2, y0 + p.1), (x0 - p.1, y0 + p.2)] else [])

/-- `CornerFill(x0, y0, r, m, delta)` of R142. -/
def cornerFill (x0 y0 r : Int) (m : BitVec 2) (delta : Int) : List Pixel :=
  (walk r).flatMap fun p =>
    (if m.getLsbD 0 then
      pspan (x0 - p.1) (x0 + p.1 + delta) (y0 - p.2) ++ pspan (x0 - p.2) (x0 + p.2 + delta) (y0 - p.1) else []) ++
    (if m.getLsbD 1 then
      pspan (x0 - p.1) (x0 + p.1 + delta) (y0 + p.2) ++ pspan (x0 - p.2) (x0 + p.2 + delta) (y0 + p.1) else [])

/-- The pixels of CIRCLE (R143). -/
def circlePixels (x0 y0 r : Int) : List Pixel :=
  if r < 0 then []
  else [(x0, y0 + r), (x0, y0 - r), (x0 + r, y0), (x0 - r, y0)] ++ cornerArc x0 y0 r 0b1111

/-- The pixels of FILLCIRCLE (R144). -/
def fillcirclePixels (x0 y0 r : Int) : List Pixel :=
  if r < 0 then [] else hspan (x0 - r) y0 (2 * r + 1) ++ cornerFill x0 y0 r 0b11 0

/-- CIRCLE (R143). -/
def execCircle (x0 y0 r : Int) (s : State) : Host.Outcome State Fault Refusal :=
  .next (s.paint (circlePixels x0 y0 r) s.fg)

/-- FILLCIRCLE (R144). -/
def execFillcircle (x0 y0 r : Int) (s : State) : Host.Outcome State Fault Refusal :=
  .next (s.paint (fillcirclePixels x0 y0 r) s.fg)

end Sys2Proof.Machine
end

