-- ==== Sys2Proof/Machine/Lifecycle.lean ====
section
/-!
DEFINITION. Framebuffer lifecycle and draw colour: CLEAR (40_framebuffer_lifecycle.md), SETFG and SETFGBG (47_color.md).
-/
namespace Sys2Proof.Machine

/-- CLEAR (R110): every framebuffer byte becomes 0x00, padding bits included. -/
def execClear (s : State) : Host.Outcome State Fault Refusal := .next (s.setFb (zeros (fbBytes s.cfg)))

/-- SETFG (R180): the foreground colour, and the background transparent. -/
def execSetfg (fg : Colour) (s : State) : Host.Outcome State Fault Refusal := .next (s.setColours fg none)

/-- SETFGBG (R181): the foreground and background colours. -/
def execSetfgbg (fg bg : Colour) (s : State) : Host.Outcome State Fault Refusal := .next (s.setColours fg (some bg))

end Sys2Proof.Machine
end

