-- ==== Sys2Proof/Machine/Pixels.lean ====
section
/-!
DEFINITION. The pixel commands SETPIXEL and GETPIXEL (41_pixel.md).
-/
namespace Sys2Proof.Machine

/-- SETPIXEL (R122): one pixel in the foreground colour. -/
def execSetpixel (x y : Int) (s : State) : Host.Outcome State Fault Refusal := .next (s.plot x y s.fg)

/-- The pixel value GETPIXEL reads (R123): 0 out of bounds, any bit at an UNMAPPED point (log 6). -/
def State.pixelRead (s : State) (x y : Int) : Bool :=
  match mapRead s.cfg x y with
  | .invalid => false
  | .unmapped => Config.freePixel s.draws
  | .mapped i b => s.fbBit i b

/-- GETPIXEL (R123): the pixel value into RESULT. -/
def execGetpixel (x y : Int) (s : State) : Host.Outcome State Fault Refusal :=
  .next (s.setResult (resultWord (s.pixelRead x y)))

end Sys2Proof.Machine
end

