-- ==== Sys2Proof/Machine/RoundRects.lean ====
section
/-!
DEFINITION. ROUNDRECT and FILLROUNDRECT (45_raster_roundrect.md).
-/
namespace Sys2Proof.Machine

/-- `ClampR(w, h, r)` of R160, for `w > 0` and `h > 0`. -/
def clampR (w h r : Int) : Int := max 0 (min r (min w h / 2))

/-- The pixels of ROUNDRECT for positive `w`, `h` and a radius already clamped (R161). -/
def roundrectBody (x y w h r : Int) : List Pixel :=
  hspan (x + r) y (w - 2 * r) ++ hspan (x + r) (y + h - 1) (w - 2 * r) ++
  vspan x (y + r) (h - 2 * r) ++ vspan (x + w - 1) (y + r) (h - 2 * r) ++
  cornerArc (x + r) (y + r) r 0b0001 ++ cornerArc (x + w - r - 1) (y + r) r 0b0010 ++
  cornerArc (x + w - r - 1) (y + h - r - 1) r 0b0100 ++ cornerArc (x + r) (y + h - r - 1) r 0b1000

/-- The pixels of FILLROUNDRECT for positive `w`, `h` and a radius already clamped (R162). -/
def fillroundrectBody (x y w h r : Int) : List Pixel :=
  fillrectPixels x (y + r) w (h - 2 * r) ++
  cornerFill (x + r) (y + r) r 0b01 (w - 2 * r - 1) ++
  cornerFill (x + r) (y + h - r - 1) r 0b10 (w - 2 * r - 1)

/-- The pixels of ROUNDRECT (R161). -/
def roundrectPixels (x y w h r : Int) : List Pixel :=
  if w ≤ 0 ∨ h ≤ 0 then [] else roundrectBody x y w h (clampR w h r)

/-- The pixels of FILLROUNDRECT (R162). -/
def fillroundrectPixels (x y w h r : Int) : List Pixel :=
  if w ≤ 0 ∨ h ≤ 0 then [] else fillroundrectBody x y w h (clampR w h r)

/-- ROUNDRECT (R161). -/
def execRoundrect (x y w h r : Int) (s : State) : Host.Outcome State Fault Refusal :=
  .next (s.paint (roundrectPixels x y w h r) s.fg)

/-- FILLROUNDRECT (R162). -/
def execFillroundrect (x y w h r : Int) (s : State) : Host.Outcome State Fault Refusal :=
  .next (s.paint (fillroundrectPixels x y w h r) s.fg)

end Sys2Proof.Machine
end

