-- ==== Sys2Proof/Machine/Triangles.lean ====
section
/-!
DEFINITION. TRIANGLE and FILLTRIANGLE (44_raster_triangles.md).
-/
namespace Sys2Proof.Machine

/-- The pixels of TRIANGLE (R150): three lines. -/
def trianglePixels (x0 y0 x1 y1 x2 y2 : Int) : List Pixel :=
  linePixels x0 y0 x1 y1 ++ linePixels x1 y1 x2 y2 ++ linePixels x2 y2 x0 y0

/-- Two points in order of `y`, exchanged only on strict `>` (R151). -/
def orderPair (p q : Pixel) : Pixel × Pixel := if p.2 > q.2 then (q, p) else (p, q)

/-- The three vertices sorted by `y`, by the three exchanges of R151. -/
def sortVertices (p0 p1 p2 : Pixel) : Pixel × Pixel × Pixel :=
  let a := orderPair p0 p1
  let b := orderPair a.2 p2
  let c := orderPair a.1 b.1
  (c.1, c.2, b.2)

/-- A loop of R151: `n` rows from `y` down, each the span between the edge that starts at column `xa` and the edge that
starts at column `xb`. -/
def fillRows (xa xb dxa dxb dya dyb : Int) : Nat → Int → Int → Int → List Pixel
  | 0, _, _, _ => []
  | n + 1, y, sa, sb =>
      pspan (xa + sa.tdiv dya) (xb + sb.tdiv dyb) y ++
        fillRows xa xb dxa dxb dya dyb n (y + 1) (sa + dxa) (sb + dxb)

/-- R151 after the sort. -/
def fillSorted (p0 p1 p2 : Pixel) : List Pixel :=
  if p0.2 = p2.2 then
    let a := min p0.1 (min p1.1 p2.1)
    let b := max p0.1 (max p1.1 p2.1)
    hspan a p0.2 (b - a + 1)
  else
    let dx01 := p1.1 - p0.1
    let dy01 := p1.2 - p0.2
    let dx02 := p2.1 - p0.1
    let dy02 := p2.2 - p0.2
    let dx12 := p2.1 - p1.1
    let dy12 := p2.2 - p1.2
    let last := if p1.2 = p2.2 then p1.2 else p1.2 - 1
    let yLow := max p0.2 (last + 1)
    fillRows p0.1 p0.1 dx01 dx02 dy01 dy02 (last + 1 - p0.2).toNat p0.2 0 0 ++
      fillRows p1.1 p0.1 dx12 dx02 dy12 dy02 (p2.2 + 1 - yLow).toNat yLow (dx12 * (yLow - p1.2)) (dx02 * (yLow - p0.2))

/-- The pixels of FILLTRIANGLE (R151). -/
def filltrianglePixels (x0 y0 x1 y1 x2 y2 : Int) : List Pixel :=
  let v := sortVertices (x0, y0) (x1, y1) (x2, y2)
  fillSorted v.1 v.2.1 v.2.2

/-- TRIANGLE (R150). -/
def execTriangle (x0 y0 x1 y1 x2 y2 : Int) (s : State) : Host.Outcome State Fault Refusal :=
  .next (s.paint (trianglePixels x0 y0 x1 y1 x2 y2) s.fg)

/-- FILLTRIANGLE (R151). -/
def execFilltriangle (x0 y0 x1 y1 x2 y2 : Int) (s : State) : Host.Outcome State Fault Refusal :=
  .next (s.paint (filltrianglePixels x0 y0 x1 y1 x2 y2) s.fg)

end Sys2Proof.Machine
end

