-- ==== Sys2Proof/Machine/Dispatch.lean ====
section
/-!
DEFINITION. One arm per command: its meaning (the effects R91 places between the start and the finish event).
-/
namespace Sys2Proof.Machine

def exec (i : Instr) (s : State) : Host.Outcome State Fault Refusal :=
  match i with
  | .clear => Sys2Proof.Machine.execClear s
  | .setfg fg => Sys2Proof.Machine.execSetfg fg s
  | .setfgbg fg bg => Sys2Proof.Machine.execSetfgbg fg bg s
  | .setpixel x y => Sys2Proof.Machine.execSetpixel x y s
  | .getpixel x y => Sys2Proof.Machine.execGetpixel x y s
  | .line x0 y0 x1 y1 => Sys2Proof.Machine.execLine x0 y0 x1 y1 s
  | .rect x y w h => Sys2Proof.Machine.execRect x y w h s
  | .fillrect x y w h => Sys2Proof.Machine.execFillrect x y w h s
  | .roundrect x y w h r => Sys2Proof.Machine.execRoundrect x y w h r s
  | .fillroundrect x y w h r => Sys2Proof.Machine.execFillroundrect x y w h r s
  | .circle x0 y0 r => Sys2Proof.Machine.execCircle x0 y0 r s
  | .fillcircle x0 y0 r => Sys2Proof.Machine.execFillcircle x0 y0 r s
  | .triangle x0 y0 x1 y1 x2 y2 => Sys2Proof.Machine.execTriangle x0 y0 x1 y1 x2 y2 s
  | .filltriangle x0 y0 x1 y1 x2 y2 => Sys2Proof.Machine.execFilltriangle x0 y0 x1 y1 x2 y2 s
  | .blit x y w h addr => Sys2Proof.Machine.execBlit x y w h addr s
  | .blitx x y w h addr rot flip => Sys2Proof.Machine.execBlitx x y w h addr rot flip s

end Sys2Proof.Machine
end

