-- ==== Sys2Proof/Machine/Step.lean ====
section
/-!
DEFINITION. One step: one agent's turn (70_reset_and_hazards.md R230, log 8).
-/
namespace Sys2Proof.Machine

/-- The engine's turn while EXECUTING: the command in PKT performs its effects, then the finish event (R91). -/
def runCommand (s : State) : Host.Outcome State Fault Refusal :=
  match fetchCommand s with
  | none => .fault .noPacket
  | some i =>
      match exec i s with
      | .next t => .next (finishCommand t)
      | .fault f => .fault f
      | .refused r => .refused r

/-- What one agent's turn does. -/
def takeTurn (t : Turn) (s : State) : Host.Outcome State Fault Refusal :=
  match t with
  | .engine => if s.phase = .executing then runCommand s else .next s
  | .host => .next (hostTurn s)
  | .observer n => .next (s.hostRead n)
  | .transport i => .next (s.transportRead i)
  | .reset => .next (hardReset s)
  | .source a b => .next (s.writeSource a b)

/-- One step of the machine. -/
def step (s : State) : Host.Outcome State Fault Refusal := takeTurn (nextTurn s).1 (nextTurn s).2

/-- The state whose next step runs the packet given as one number: it stands in PKT, its start event just past. Words
that are no packet are put at the CMD port instead, where the next step meets their error (log 11). -/
def State.withFetchWord (s : State) (nbits w : Nat) : State :=
  match decode (tableWords nbits w) with
  | .ok _ => placePacket (tableWords nbits w) s
  | .error _ => placeWords (tableWords nbits w) s

end Sys2Proof.Machine
end

