-- ==== Sys2Proof/Safety.lean ====
section
/-!
DEFINITION. The terms claims use: the invariant of the state, what it is to paint a set of pixels, and which parts of
two states agree.
-/
namespace Sys2Proof.Machine

/-- Every operand word received is legal for its place (R88). -/
def operandsOk (ks : List OperandKind) (ws : List Word) : Bool := (ks.zip ws).all fun p => operandOk p.1 p.2

/-- A packet still waiting for operand words: a legal header, fewer legal operand words than it asks for (R90). -/
def partialPacket : List Word → Bool
  | [] => false
  | h :: ws =>
      match headerOp h with
      | .ok op => decide (ws.length < opK op) && operandsOk (opKinds op) ws
      | .error _ => false

/-- PHASE agrees with PKT and STATUS as the table of R32 says. -/
def phaseOk (s : State) : Bool :=
  match s.phase with
  | .idle => decide (s.pkt = [] ∧ s.status = Status.clear)
  | .receiving => partialPacket s.pkt && decide (s.status = statusReceiving)
  | .executing => (fetchCommand s).isSome && decide (s.status = statusExecuting)
  | .halted =>
      decide (s.pkt = [] ∧ (s.status = statusHalted .illegalOpcode ∨ s.status = statusHalted .reservedHeader ∨
        s.status = statusHalted .reservedOperand))

/-- The invariant of the machine's states. -/
structure Inv (s : State) : Prop where
  /-- The framebuffer keeps its canonical form. -/
  fbWf : Memory.wf s.fb
  /-- Only bytes of the framebuffer are listed (R21). -/
  fbBelow : Memory.below (fbBytes s.cfg) s.fb
  /-- Source memory keeps its canonical form. -/
  srcWf : Memory.wf s.srcMem
  /-- Source memory has 2^32 bytes (R60). -/
  srcBelow : Memory.below 4294967296 s.srcMem
  /-- RESULT[31:1] reads 0 (R26). -/
  resultBit : s.result = 0 ∨ s.result = 1
  /-- PHASE, PKT and STATUS agree (R27, R31, R32). -/
  phaseOk : phaseOk s = true
  /-- ERRWORD holds a word only once a command error occurred (R28). -/
  errWordOk : s.phase ≠ .halted → s.errWord = 0
  /-- The port holds a write only from a command's running until the write completes (R29). -/
  heldOk : s.held ≠ none → s.phase = .executing ∨ s.phase = .idle
  /-- The draw of the unlisted framebuffer bytes is a past one. -/
  drawsOk : s.fbDraw < s.draws

/-- `t` is `s` with exactly the in-bounds pixels of the set `S` painted in colour `c`: the bit of each becomes `c`, every
other bit of the framebuffer reads as before, padding bits included, and nothing else of the state differs (R124). -/
structure Paints (s t : State) (S : Int → Int → Prop) (c : Colour) : Prop where
  /-- Every field but the framebuffer is unchanged. -/
  only : t = s.setFb t.fb
  /-- The bit of a painted pixel. -/
  inside : ∀ x y i b, mapPixel s.cfg x y = some (i, b) → S x y → t.fbBit i b = c
  /-- Every bit that is no painted pixel's. -/
  outside : ∀ i b, (∀ x y, mapPixel s.cfg x y = some (i, b) → ¬ S x y) → t.fbBit i b = s.fbBit i b

/-- Two lists are the same pixel set. -/
def SamePixels (ps qs : List Pixel) : Prop := ∀ p, p ∈ ps ↔ p ∈ qs

/-- Two states agree on everything R20 lists and on the build parameters: what differs is outside the engine. -/
structure SameEngine (s t : State) : Prop where
  cfg : t.cfg = s.cfg
  fb : t.fb = s.fb
  fbDraw : t.fbDraw = s.fbDraw
  fg : t.fg = s.fg
  bg : t.bg = s.bg
  result : t.result = s.result
  status : t.status = s.status
  errWord : t.errWord = s.errWord
  pkt : t.pkt = s.pkt
  phase : t.phase = s.phase

/-- Bit `b` of framebuffer byte `i` is a padding bit: no native pixel is its (R53). -/
def PaddingBit (c : Config) (i b : Nat) : Prop := i < fbBytes c ∧ b < 8 ∧ nh c ≤ 8 * (i / nw c) + b

/-- The table of R87: each command with its MATCH and MASK, written out from the spec beside the decoder's own tables. -/
def headerTable : List (Op × Word × Word) :=
  [(.clear, 0x00000001, 0xFFFFFFFF), (.setfg, 0x00000002, 0xFFFFFEFF), (.setfgbg, 0x00000003, 0xFFFFFCFF),
   (.setpixel, 0x00000010, 0xFFFFFFFF), (.getpixel, 0x00000011, 0xFFFFFFFF), (.line, 0x00000020, 0xFFFFFFFF),
   (.rect, 0x00000030, 0xFFFFFFFF), (.fillrect, 0x00000031, 0xFFFFFFFF), (.roundrect, 0x00000032, 0xFFFFFFFF),
   (.fillroundrect, 0x00000033, 0xFFFFFFFF), (.circle, 0x00000040, 0xFFFFFFFF), (.fillcircle, 0x00000041, 0xFFFFFFFF),
   (.triangle, 0x00000050, 0xFFFFFFFF), (.filltriangle, 0x00000051, 0xFFFFFFFF), (.blit, 0x00000060, 0xFFFFFFFF),
   (.blitx, 0x00000061, 0xFFFFF0FF)]

/-- Whether operand number `j` of the packet with header `h` is an R word (the operand column of R86): the third of
ROUNDRECT and FILLROUNDRECT, the second of CIRCLE and FILLCIRCLE. -/
def radiusOperand (h : Word) (j : Nat) : Prop :=
  ((h &&& 0xFF = 0x32 ∨ h &&& 0xFF = 0x33) ∧ j = 3) ∨ ((h &&& 0xFF = 0x40 ∨ h &&& 0xFF = 0x41) ∧ j = 2)

/-- The state after a command error of the given code at word `w` (R191, R32 row HALTED). -/
def haltedBy (code : BitVec 4) (w : Word) (s : State) : State :=
  { s with
    status := { busy := false, pend := false, err := true, errCode := code }, errWord := w, pkt := [], phase := .halted }

/-- The engine's turn runs command `i` at this step. -/
def EngineRuns (s : State) (i : Instr) : Prop :=
  (nextTurn s).1 = .engine ∧ s.phase = .executing ∧ fetchCommand s = some i

/-- The words of a command as host writes to CMD. -/
def cmdWrites (ws : List Word) : List HostAccess := ws.map (HostAccess.write 0)

end Sys2Proof.Machine
end

