-- ==== Sys2Proof/Certificates/Slice0/Obligations.lean ====
section
/-!
DEFINITION. The statements for the provers, in the order of OBLIGATIONS.json.
-/

open Sys2Proof Sys2Proof.Machine

/-! ### Reset, the invariant, whole-machine rules -/

/-- R33, R211: the reset turn, in any phase, leaves the registers at the spec's reset values. R33 leaves the framebuffer
unspecified; that every byte of it is a free draw of its own is the model's form (log 2, DESIGN CHOICE). A running
command is gone, a partial packet is dropped, a held CMD write completes discarded; the configuration with its registers
and SrcMem stay. -/
def Obligations.ResetTurnSetsResetValues : Prop :=
  ∀ (s : State) (rest : List Turn), s.turns = .reset :: rest →
    ∃ t, step s = .next t ∧ t.fg = true ∧ t.bg = none ∧ t.result = 0 ∧ statusWord t.status = 0 ∧ t.errWord = 0 ∧
      t.pktN = 0 ∧ t.phase = .idle ∧ (∀ i, t.fbByte i = Config.freeFbByte s.draws i) ∧
      t.held = none ∧ t.cfg = s.cfg ∧ t.srcMem = s.srcMem ∧
      t.readReg 4 = s.readReg 4 ∧ t.readReg 5 = s.readReg 5

/-- The state after reset meets the invariant of the model. -/
def Obligations.ResetStateMeetsInvariant : Prop := Inv State.reset

/-- Every step keeps the invariant: canonical memories inside their address spaces, RESULT's reserved bits 0, PHASE, PKT
and STATUS in agreement as R32's table says, ERRWORD written only by an error. -/
def Obligations.StepKeepsInvariant : Prop :=
  ∀ s t : State, Inv s → step s = .next t → Inv t

/-- R189: from every state that meets the invariant the machine goes on, whatever the words and operand values. -/
def Obligations.StepAlwaysGoesOn : Prop :=
  ∀ s : State, Inv s → ∃ t, step s = .next t

/-- R213: no command, register write or reset changes the configuration. -/
def Obligations.ConfigurationIsFixed : Prop :=
  ∀ s t : State, step s = .next t → t.cfg = s.cfg ∧ t.readReg 4 = s.readReg 4 ∧ t.readReg 5 = s.readReg 5

/-- R192, R193: in HALTED nothing but the reset turn changes the engine. A word written to CMD completes at once and is
discarded, the read port keeps serving. Reset clears the error. -/
def Obligations.HaltedUntilReset : Prop :=
  ∀ s t : State, s.phase = .halted → step s = .next t →
    ((nextTurn s).1 ≠ .reset → SameEngine s t) ∧
    ((nextTurn s).1 = .host → s.held = none →
      ∀ w rest, s.host = .write 0 w :: rest → t.host = rest ∧ t.held = none) ∧
    (∀ i, (nextTurn s).1 = .transport i → t.portAnswer = some (s.portByte i)) ∧
    ((nextTurn s).1 = .reset → t.phase = .idle ∧ t.status = Status.clear ∧ t.errWord = 0)

/-- R32: STATUS in each phase, and the transitions: which phase can follow which, and through whose turn. -/
def Obligations.PhaseTableAndTransitions : Prop :=
  ∀ s t : State, Inv s → step s = .next t →
    (s.phase = .idle → s.pktN = 0 ∧ statusWord s.status = 0) ∧
    (s.phase = .receiving → 1 ≤ s.pktN ∧ statusWord s.status = 2) ∧
    (s.phase = .executing → statusWord s.status = 1) ∧
    (s.phase = .halted → s.pktN = 0 ∧ statusWord s.status &&& 0xF = 4) ∧
    (t.phase ≠ s.phase → (nextTurn s).1 = .reset ∧ t.phase = .idle ∨
      (nextTurn s).1 = .engine ∧ s.phase = .executing ∧ t.phase = .idle ∨
      (nextTurn s).1 = .host ∧ (s.phase = .idle ∨ s.phase = .receiving) ∧
        (t.phase = .receiving ∨ t.phase = .executing ∨ t.phase = .halted))

/-- R24: FG and BG keep their values until the next SETFG or SETFGBG or reset. -/
def Obligations.ColoursKeptUntilSet : Prop :=
  ∀ s t : State, step s = .next t → (t.fg ≠ s.fg ∨ t.bg ≠ s.bg) →
    (nextTurn s).1 = .reset ∨ ∃ i, EngineRuns s i ∧ ((∃ fg, i = .setfg fg) ∨ ∃ fg bg, i = .setfgbg fg bg)

/-- R21, R26, R53, R123, R221: RESULT changes only where a GETPIXEL finishes, and a framebuffer bit only where a command
other than SETFG, SETFGBG and GETPIXEL runs, or at reset. A padding bit changes only by CLEAR, which makes it 0, or at
reset. -/
def Obligations.ResultAndFramebufferWriters : Prop :=
  ∀ s t : State, step s = .next t →
    (t.result ≠ s.result → (nextTurn s).1 = .reset ∨ ∃ i, EngineRuns s i ∧ ∃ x y, i = .getpixel x y) ∧
    ∀ i b : Nat, t.fbBit i b ≠ s.fbBit i b →
      (nextTurn s).1 = .reset ∨
        ∃ c, EngineRuns s c ∧ c.op ≠ .setfg ∧ c.op ≠ .setfgbg ∧ c.op ≠ .getpixel ∧
          (PaddingBit s.cfg i b → c = .clear ∧ t.fbBit i b = false)

/-! ### Encoding and the packet decoder -/

/-- Decoding the packet of a well-formed command gives the command and the words after it, for every command and every
operand value that has an encoding. -/
def Obligations.DecodeEncodeRoundTrip : Prop :=
  ∀ (i : Instr) (rest : List Word), WellFormed i = true → decode (encode i ++ rest) = .ok (i, rest)

/-- Every packet the decoder accepts is the packet of the well-formed command it gives: no word has two meanings. -/
def Obligations.EncodeDecodeRoundTrip : Prop :=
  ∀ (ws rest : List Word) (i : Instr), decode ws = .ok (i, rest) → WellFormed i = true ∧ encode i ++ rest = ws

/-- R87: a header `h` selects a command exactly when `h & mask = match` for that command's row. -/
def Obligations.HeaderSelectsByMatchAndMask : Prop :=
  ∀ (h : Word) (op : Op), headerOp h = .ok op ↔ ∃ row ∈ headerTable, row.1 = op ∧ h &&& row.2.2 = row.2.1

/-- R82, R83, R84, R86: what each operand field and header field of the sixteen commands decodes to, for all words. -/
def Obligations.OperandFieldsDecodeAsTabulated : Prop :=
  ∀ (a b c : Word) (fg bg : Bool) (rot flip : Fin 4), ∀ lo hi : Word → Int,
    (∀ w, lo w = (w.extractLsb' 0 16).toInt) → (∀ w, hi w = (w.extractLsb' 16 16).toInt) →
    decode [0x01] = .ok (.clear, []) ∧
    decode [if fg then 0x102 else 0x002] = .ok (.setfg fg, []) ∧
    decode [0x03 ||| (if fg then 0x100 else 0) ||| (if bg then 0x200 else 0)] = .ok (.setfgbg fg bg, []) ∧
    decode [0x10, a] = .ok (.setpixel (lo a) (hi a), []) ∧
    decode [0x11, a] = .ok (.getpixel (lo a) (hi a), []) ∧
    decode [0x20, a, b] = .ok (.line (lo a) (hi a) (lo b) (hi b), []) ∧
    decode [0x30, a, b] = .ok (.rect (lo a) (hi a) (lo b) (hi b), []) ∧
    decode [0x31, a, b] = .ok (.fillrect (lo a) (hi a) (lo b) (hi b), []) ∧
    (c.toNat < 65536 → decode [0x32, a, b, c] = .ok (.roundrect (lo a) (hi a) (lo b) (hi b) (lo c), []) ∧
      decode [0x33, a, b, c] = .ok (.fillroundrect (lo a) (hi a) (lo b) (hi b) (lo c), []) ∧
      decode [0x40, a, c] = .ok (.circle (lo a) (hi a) (lo c), []) ∧
      decode [0x41, a, c] = .ok (.fillcircle (lo a) (hi a) (lo c), [])) ∧
    decode [0x50, a, b, c] = .ok (.triangle (lo a) (hi a) (lo b) (hi b) (lo c) (hi c), []) ∧
    decode [0x51, a, b, c] = .ok (.filltriangle (lo a) (hi a) (lo b) (hi b) (lo c) (hi c), []) ∧
    decode [0x60, a, b, c] = .ok (.blit (lo a) (hi a) (lo b) (hi b) c.toNat, []) ∧
    decode [0x61 ||| BitVec.ofNat 32 (256 * rot.val) ||| BitVec.ofNat 32 (1024 * flip.val), a, b, c] =
      .ok (.blitx (lo a) (hi a) (lo b) (hi b) c.toNat
        ([BitmapRot.r0, .ccw, .r180, .cw].getD rot.val .r0)
        ([Flip.noflip, .flipH, .flipV, .flipHV].getD flip.val .noflip), [])

/-- R94: the encoding examples of the spec, both ways. -/
def Obligations.EncodingExamples : Prop :=
  encode .clear = [0x00000001] ∧ encode (.setfg true) = [0x00000102] ∧ encode (.setfgbg false true) = [0x00000203] ∧
  encode (.setpixel 5 3) = [0x00000010, 0x00030005] ∧
  encode (.line 0 0 10 0) = [0x00000020, 0x00000000, 0x0000000A] ∧
  encode (.fillrect 2 2 4 3) = [0x00000031, 0x00020002, 0x00030004] ∧
  encode (.circle 40 24 (-1)) = [0x00000040, 0x00180028, 0x0000FFFF] ∧
  encode (.blitx 10 20 8 8 0x100 .cw .flipH) = [0x00000761, 0x0014000A, 0x00080008, 0x00000100] ∧
  encode (.setpixel (-1) 0) = [0x00000010, 0x0000FFFF] ∧
  decode [0x00000761, 0x0014000A, 0x00080008, 0x00000100] = .ok (.blitx 10 20 8 8 0x100 .cw .flipH, []) ∧
  decode [0x00000040, 0x00180028, 0x0000FFFF] = .ok (.circle 40 24 (-1), [])

/-- R88, R190, R191, R194: a malformed word at the decoder is the command error of its code, recorded with the word, the
packet dropped, the engine HALTED and nothing else of the state changed. The opcode test comes before the reserved-bit
test. No other word is an error. -/
def Obligations.MalformedWordsHalt : Prop :=
  ∀ (s : State) (w : Word), s.phase ≠ .halted →
    (s.pkt = [] → (∀ row ∈ headerTable, w &&& 0xFF ≠ row.2.1) → onCmdWord w s = haltedBy 1 w s) ∧
    (s.pkt = [] → ∀ row ∈ headerTable, w &&& 0xFF = row.2.1 → w &&& row.2.2 ≠ row.2.1 →
      onCmdWord w s = haltedBy 2 w s) ∧
    (∀ h ws, s.pkt = h :: ws → radiusOperand h (ws.length + 1) → w >>> 16 ≠ 0 → onCmdWord w s = haltedBy 3 w s) ∧
    (s.pkt = [] → (∃ row ∈ headerTable, w &&& row.2.2 = row.2.1) → (onCmdWord w s).phase ≠ .halted) ∧
    (∀ h ws, s.pkt = h :: ws → (radiusOperand h (ws.length + 1) → w >>> 16 = 0) → (onCmdWord w s).phase ≠ .halted)

/-- R90: the words of a well-formed command, given to an IDLE decoder one by one, wait in PKT with PEND set until the
last one, which is the start event. The start event also clears the model's flag srcMoved (log 5, DESIGN CHOICE), and
PKT keeps the packet while it executes, with PEND 0 (log 13, DEDUCED). No part of the state but PKT, PHASE, STATUS and
srcMoved changes. -/
def Obligations.WordsAssembleToPacket : Prop :=
  ∀ (i : Instr) (s : State) (n : Nat), WellFormed i = true → s.phase = .idle → s.pkt = [] →
    0 < n → n ≤ (encode i).length →
    ((encode i).take n).foldl (fun u w => onCmdWord w u) s =
      if n = (encode i).length then
        { s with
          pkt := encode i, phase := .executing, srcMoved := false
          status := { busy := true, pend := false, err := false, errCode := 0 } }
      else
        { s with
          pkt := (encode i).take n, phase := .receiving
          status := { busy := false, pend := true, err := false, errCode := 0 } }

/-- R91: when the packet in PKT decodes to `i` and it is the engine's turn, the step is `exec i`, then the finish event:
PHASE IDLE, BUSY 0, PKT_N 0. The turn order (log 8), the single step (log 20) and the draw counter, which moves on
(log 19), are the model's. -/
def Obligations.StepRunsDecodedCommand : Prop :=
  ∀ (s : State) (i : Instr), s.phase = .executing → (s.turns = [] ∨ ∃ ts, s.turns = .engine :: ts) →
    decode s.pkt = .ok (i, []) →
    step s =
      match exec i { s with turns := s.turns.tail } with
      | .next t =>
          .next { t with
            phase := .idle, pkt := [], draws := t.draws + 1
            status := { busy := false, pend := false, err := false, errCode := 0 } }
      | .fault f => .fault f
      | .refused r => .refused r

/-- R65, R90, R91: the packet protocol refines the command. From IDLE, with the words of a well-formed command first
among the host's writes and nobody else acting, one step per word and one more give the command's own effects on the
state in which it started, and the engine is IDLE again with the host's other accesses still to come. The turn order
(log 8), the command in one step (log 20), the draw counter, which moves on (log 19), and the packet kept in PKT while
it executes with srcMoved cleared (log 13, log 5) are the model's. -/
def Obligations.PacketRunsAsOneCommand : Prop :=
  ∀ (i : Instr) (s u : State) (rest : List HostAccess), WellFormed i = true →
    s.phase = .idle → s.pkt = [] → s.held = none → s.turns = [] → s.host = cmdWrites (encode i) ++ rest →
    exec i
      { s with
        host := rest, pkt := encode i, phase := .executing, srcMoved := false
        status := { busy := true, pend := false, err := false, errCode := 0 } } = .next u →
    Host.Core.run Sys2Proof.core ((encode i).length + 1) s =
      .next { u with
        phase := .idle, pkt := [], draws := u.draws + 1
        status := { busy := false, pend := false, err := false, errCode := 0 } }

/-! ### Ports and registers -/

/-- R25: the register map. Reads of CMD and of reserved numbers give 0, a write to any register but CMD changes nothing,
a read changes nothing of the engine. R66, R231: a host's read answers the register's word, on the host's own turn when
no write of its is held, and on another host's turn in every phase, EXECUTING included. The field regAnswer for the
answer (log 14), the turns (log 8) and the other host's read as a turn of its own (log 9) are the model's. -/
def Obligations.RegisterMap : Prop :=
  ∀ (s : State) (n : BitVec 8) (w : Word),
    s.readReg 0 = 0 ∧ s.readReg 1 = statusWord s.status ∧ s.readReg 2 = s.result ∧ s.readReg 3 = s.errWord ∧
    (s.readReg 4).toNat = s.cfg.nw.val + 65536 * s.cfg.nh.val ∧
    (s.readReg 5).toNat = s.cfg.rot.code + 4 * s.cfg.readMap.code ∧
    s.readReg 6 = colorWord s.fg s.bg ∧ (7 ≤ n.toNat → s.readReg n = 0) ∧
    (n ≠ 0 → hostWrite n w s = s) ∧ SameEngine s (s.hostRead n) ∧ (s.hostRead n).regAnswer = some (s.readReg n) ∧
    ((nextTurn s).1 = .observer n →
      ∃ t, step s = .next t ∧ SameEngine s t ∧ t.held = s.held ∧ t.host = s.host ∧ t.regAnswer = some (s.readReg n)) ∧
    (∀ rest, (nextTurn s).1 = .host → s.held = none → s.host = .read n :: rest →
      ∃ t, step s = .next t ∧ SameEngine s t ∧ t.held = none ∧ t.host = rest ∧ t.regAnswer = some (s.readReg n))

/-- R27: the fields of STATUS as the host reads them, in every state that meets the invariant. -/
def Obligations.StatusFields : Prop :=
  ∀ s : State, Inv s →
    ((s.readReg 1).getLsbD 0 = true ↔ s.phase = .executing) ∧
    ((s.readReg 1).getLsbD 1 = true ↔ s.phase = .receiving) ∧
    ((s.readReg 1).getLsbD 2 = true ↔ s.phase = .halted) ∧
    (s.readReg 1).getLsbD 3 = false ∧
    (s.readReg 1).extractLsb' 4 4 = s.status.errCode ∧ (s.phase ≠ .halted → s.status.errCode = 0) ∧
    (s.phase = .halted → s.status.errCode = 1 ∨ s.status.errCode = 2 ∨ s.status.errCode = 3) ∧
    (s.readReg 1).extractLsb' 8 24 = 0

/-- R30: the fields of COLOR, and its value after reset. -/
def Obligations.ColorRegisterFields : Prop :=
  (∀ s : State,
    (s.readReg 6).getLsbD 0 = s.fg ∧ ((s.readReg 6).getLsbD 1 = true ↔ s.bg ≠ none) ∧
    (∀ c, s.bg = some c → (s.readReg 6).getLsbD 2 = c) ∧ (s.bg = none → (s.readReg 6).getLsbD 2 = false) ∧
    (s.readReg 6).extractLsb' 3 29 = 0) ∧
  State.reset.readReg 6 = 0x00000001

/-- R58: the transport's read gives FB[i] inside the framebuffer and 0x00 beyond, changes nothing of the engine, and does
not depend on ROT. While a command runs it gives some byte, a free value of the model (R59, log 7), and the step still
changes nothing of the engine. -/
def Obligations.ReadPortServesFramebuffer : Prop :=
  ∀ (s : State) (i : Nat), (nextTurn s).1 = .transport i →
    ∃ t, step s = .next t ∧ SameEngine s t ∧
      (s.phase ≠ .executing → t.portAnswer = some (if i < fbBytes s.cfg then s.fbByte i else 0)) ∧
      (s.phase = .executing → ∃ b, t.portAnswer = some b) ∧
      ∀ r, ({ s with cfg := { s.cfg with rot := r } } : State).portByte i = s.portByte i

/-- R29: a word written to CMD goes to the packet decoder, is held while a command executes and given to the decoder
after it, and is discarded in HALTED. -/
def Obligations.CmdWritesAreHeldWhileBusy : Prop :=
  ∀ (s : State) (w : Word) (rest : List HostAccess),
    (s.held = none → s.host = .write 0 w :: rest → s.phase = .executing →
      hostTurn s = { s with host := rest, held := some w }) ∧
    (s.held = none → s.host = .write 0 w :: rest → s.phase ≠ .executing →
      hostTurn s = onCmdWord w { s with host := rest }) ∧
    (s.held = some w → s.phase = .executing → hostTurn s = s) ∧
    (s.held = some w → s.phase ≠ .executing → hostTurn s = onCmdWord w { s with held := none }) ∧
    (s.phase = .halted → onCmdWord w s = s)

/-- R231: a held CMD write completes: with nobody else acting, the running command finishes in one step (the model's grain,
log 8 and log 20) and the next step gives the held word to the decoder. -/
def Obligations.HeldWriteCompletes : Prop :=
  ∀ (s : State) (w : Word), Inv s → s.phase = .executing → s.held = some w → s.turns = [] →
    ∃ t, step s = .next t ∧ t.phase = .idle ∧ t.held = some w ∧
      step t = .next (onCmdWord w { t with held := none }) ∧ (onCmdWord w { t with held := none }).held = none

/-- R62: over a byte-wide bus a word is its byte of bits [7:0] first, and the words are read back from the bytes. -/
def Obligations.WordsTravelLittleEndian : Prop :=
  ∀ (w : Word) (bs : List Byte),
    ((bytesOfWord w).map BitVec.toNat =
      [w.toNat % 256, w.toNat / 256 % 256, w.toNat / 65536 % 256, w.toNat / 16777216]) ∧
    wordsOfBytes (bytesOfWord w ++ bs) = (w :: (wordsOfBytes bs).1, (wordsOfBytes bs).2)

/-! ### Coordinate Mapper and Plot -/

/-- R54, R55, R57: the logical size in each rotation; `Map` is valid exactly on the pixels inside it; the native column
and row that each of its four formulas gives; and it is a bijection from the in-bounds pixels onto the non-padding
framebuffer bits. All for every configuration. -/
def Obligations.MapIsBijection : Prop :=
  ∀ c : Config,
    (c.rot = .none ∨ c.rot = .rot180 → logicalW c = nw c ∧ logicalH c = nh c) ∧
    (c.rot = .ccw90 ∨ c.rot = .cw90 → logicalW c = nh c ∧ logicalH c = nw c) ∧
    (∀ x y, (mapPixel c x y).isSome = true ↔ 0 ≤ x ∧ x < logicalW c ∧ 0 ≤ y ∧ y < logicalH c) ∧
    (∀ (x y : Int) (col row : Nat), 0 ≤ x → x < logicalW c → 0 ≤ y → y < logicalH c →
      (c.rot = .none ∧ (col : Int) = x ∧ (row : Int) = y ∨
        c.rot = .ccw90 ∧ (col : Int) = logicalH c - y - 1 ∧ (row : Int) = x ∨
        c.rot = .rot180 ∧ (col : Int) = nw c - x - 1 ∧ (row : Int) = nh c - y - 1 ∨
        c.rot = .cw90 ∧ (col : Int) = y ∧ (row : Int) = logicalW c - x - 1) →
      mapPixel c x y = some (col + row / 8 * nw c, row % 8)) ∧
    (∀ x y i b, mapPixel c x y = some (i, b) → i < fbBytes c ∧ b < 8 ∧ ¬ PaddingBit c i b) ∧
    (∀ x y x' y' p, mapPixel c x y = some p → mapPixel c x' y' = some p → x = x' ∧ y = y') ∧
    (∀ i b, i < fbBytes c → b < 8 → ¬ PaddingBit c i b → ∃ x y, mapPixel c x y = some (i, b))

/-- R56: the logical size and where the logical corners land in the reference configuration, in the four rotations. -/
def Obligations.MapCornersOfReference : Prop :=
  ∀ m : ReadMap,
    (∀ rot, logicalW ⟨⟨83⟩, ⟨47⟩, rot, m⟩ = (if rot = .none ∨ rot = .rot180 then 84 else 48) ∧
      logicalH ⟨⟨83⟩, ⟨47⟩, rot, m⟩ = (if rot = .none ∨ rot = .rot180 then 48 else 84)) ∧
    (mapPixel ⟨⟨83⟩, ⟨47⟩, .none, m⟩ 0 0 = some (0, 0) ∧ mapPixel ⟨⟨83⟩, ⟨47⟩, .none, m⟩ 83 0 = some (83, 0) ∧
      mapPixel ⟨⟨83⟩, ⟨47⟩, .none, m⟩ 0 47 = some (420, 7) ∧ mapPixel ⟨⟨83⟩, ⟨47⟩, .none, m⟩ 83 47 = some (503, 7)) ∧
    (mapPixel ⟨⟨83⟩, ⟨47⟩, .ccw90, m⟩ 0 0 = some (83, 0) ∧ mapPixel ⟨⟨83⟩, ⟨47⟩, .ccw90, m⟩ 47 0 = some (503, 7) ∧
      mapPixel ⟨⟨83⟩, ⟨47⟩, .ccw90, m⟩ 0 83 = some (0, 0) ∧ mapPixel ⟨⟨83⟩, ⟨47⟩, .ccw90, m⟩ 47 83 = some (420, 7)) ∧
    (mapPixel ⟨⟨83⟩, ⟨47⟩, .rot180, m⟩ 0 0 = some (503, 7) ∧ mapPixel ⟨⟨83⟩, ⟨47⟩, .rot180, m⟩ 83 0 = some (420, 7) ∧
      mapPixel ⟨⟨83⟩, ⟨47⟩, .rot180, m⟩ 0 47 = some (83, 0) ∧ mapPixel ⟨⟨83⟩, ⟨47⟩, .rot180, m⟩ 83 47 = some (0, 0)) ∧
    (mapPixel ⟨⟨83⟩, ⟨47⟩, .cw90, m⟩ 0 0 = some (420, 7) ∧ mapPixel ⟨⟨83⟩, ⟨47⟩, .cw90, m⟩ 47 0 = some (0, 0) ∧
      mapPixel ⟨⟨83⟩, ⟨47⟩, .cw90, m⟩ 0 83 = some (503, 7) ∧ mapPixel ⟨⟨83⟩, ⟨47⟩, .cw90, m⟩ 47 83 = some (83, 0))

/-- R71: the mapping GETPIXEL reads through, and where UNMAPPED can arise. -/
def Obligations.MapReadTargets : Prop :=
  ∀ (c : Config) (x y : Int),
    (mapRead c x y = .invalid ↔ inBounds c x y = false) ∧
    (c.readMap = .rotationAware ∨ c.rot = .none → ∀ i b, mapRead c x y = .mapped i b ↔ mapPixel c x y = some (i, b)) ∧
    (c.readMap = .nativeAlways → inBounds c x y = true → x < nw c → y < nh c →
      mapRead c x y = .mapped (x.toNat + y.toNat / 8 * nw c) (y.toNat % 8)) ∧
    (mapRead c x y = .unmapped ↔
      c.readMap = .nativeAlways ∧ inBounds c x y = true ∧ ((nw c : Int) ≤ x ∨ (nh c : Int) ≤ y)) ∧
    (mapRead c x y = .unmapped → (c.rot = .ccw90 ∨ c.rot = .cw90) ∧ nw c ≠ nh c)

/-- R121: `Plot` out of bounds changes nothing; in bounds it writes the one bit, leaves the other seven of the byte and
every other byte as they read before, and touches nothing else. -/
def Obligations.PlotWritesOneBit : Prop :=
  ∀ (s : State) (x y : Int) (c : Colour),
    (mapPixel s.cfg x y = none → s.plot x y c = s) ∧
    (∀ i b, mapPixel s.cfg x y = some (i, b) →
      s.plot x y c = s.setFb (s.plot x y c).fb ∧ (s.plot x y c).fbBit i b = c ∧
      (∀ b', b' ≠ b → (s.plot x y c).fbBit i b' = s.fbBit i b') ∧
      ∀ i', i' ≠ i → (s.plot x y c).fbByte i' = s.fbByte i')

/-- R124: the order of `Plot` calls in one colour cannot be observed: two lists with the same pixels leave every
framebuffer bit the same. -/
def Obligations.PlotOrderIsInvisible : Prop :=
  ∀ (s : State) (ps qs : List Pixel) (c : Colour), SamePixels ps qs →
    ∀ i b, (s.paint ps c).fbBit i b = (s.paint qs c).fbBit i b

/-! ### CLEAR, colours, pixels -/

/-- R110: CLEAR completes from every state, every framebuffer byte reads 0 after it, padding bits included, GETPIXEL then
reads 0 wherever it reads the framebuffer or out of bounds, and nothing else changes. -/
def Obligations.ClearZeroesFramebuffer : Prop :=
  ∀ s : State, ∃ t, exec .clear s = .next t ∧ t = s.setFb t.fb ∧
    (∀ i, i < fbBytes s.cfg → t.fbByte i = 0) ∧ (∀ i, t.portByte i = 0) ∧
    (∀ x y, mapRead s.cfg x y ≠ .unmapped → t.pixelRead x y = false)

/-- R180, R181: SETFG sets FG and makes BG NONE, SETFGBG sets both; each completes from every state and changes nothing
else. -/
def Obligations.ColourCommands : Prop :=
  ∀ (s : State) (fg bg : Colour),
    exec (.setfg fg) s = .next { s with fg := fg, bg := none } ∧
    exec (.setfgbg fg bg) s = .next { s with fg := fg, bg := some bg } ∧
    ∀ t, exec (.setfgbg fg bg) s = .next t →
      t.readReg 6 = (if fg then 3 else 2) ||| (if bg then 4 else 0)

/-- R122: SETPIXEL completes from every state and paints exactly its pixel in FG; out of bounds it changes nothing. -/
def Obligations.SetpixelPaintsItsPixel : Prop :=
  ∀ (s : State) (x y : Int), ∃ t, exec (.setpixel x y) s = .next t ∧
    Paints s t (fun px py => px = x ∧ py = y) s.fg ∧ (inBounds s.cfg x y = false → t = s)

/-- R123: GETPIXEL completes from every state with the pixel's value in RESULT: 0 out of bounds, the framebuffer bit where
the read mapping names one, 0 or 1 (a free value, log 6) at an UNMAPPED point. Nothing else changes. -/
def Obligations.GetpixelReadsItsPixel : Prop :=
  ∀ (s : State) (x y : Int), ∃ v : Word, exec (.getpixel x y) s = .next { s with result := v } ∧
    (mapRead s.cfg x y = .invalid → v = 0) ∧ (mapRead s.cfg x y = .unmapped → v = 0 ∨ v = 1) ∧
    ∀ i b, mapRead s.cfg x y = .mapped i b → v = if s.fbBit i b then 1 else 0

/-- R123, the first property of the source: with READ_MAP = 0, GETPIXEL after SETPIXEL of the same in-bounds point gives
the FG that SETPIXEL used, for every ROT. -/
def Obligations.SetpixelThenGetpixel : Prop :=
  ∀ (s : State) (x y : Int), s.cfg.readMap = .rotationAware → inBounds s.cfg x y = true →
    ∃ t, exec (.setpixel x y) s = .next t ∧
      exec (.getpixel x y) t = .next { t with result := if s.fg then 1 else 0 }

/-- R182: the pixel and shape commands do not depend on BG, and CLEAR and GETPIXEL depend on neither colour. -/
def Obligations.ColoursReadByCommands : Prop :=
  ∀ (i : Instr) (s t : State) (fg : Colour) (bg : Option Colour), exec i s = .next t →
    (i.op ≠ .setfg → i.op ≠ .setfgbg → i.op ≠ .blit → i.op ≠ .blitx →
      exec i { s with bg := bg } = .next { t with bg := bg }) ∧
    (i.op = .clear ∨ i.op = .getpixel → exec i { s with fg := fg, bg := bg } = .next { t with fg := fg, bg := bg })

/-! ### Spans, lines, rectangles -/

/-- R130, R131, R132: the pixels of the three spans. -/
def Obligations.SpansAreIntervals : Prop :=
  ∀ (x y n a b : Int) (p : Pixel),
    (p ∈ hspan x y n ↔ p.2 = y ∧ x ≤ p.1 ∧ p.1 < x + n) ∧
    (p ∈ vspan x y n ↔ p.1 = x ∧ y ≤ p.2 ∧ p.2 < y + n) ∧
    (p ∈ pspan a b y ↔ p.2 = y ∧ min a b ≤ p.1 ∧ p.1 ≤ max a b)

/-- R125, R189: degenerate shapes complete and change nothing, SETPIXEL of an out-of-bounds pixel completes and changes
nothing, and painting pixels that are all out of bounds changes nothing. -/
def Obligations.DegenerateShapesDrawNothing : Prop :=
  ∀ (s : State) (x y w h r : Int) (addr : Nat) (rot : BitmapRot) (flip : Flip),
    (w ≤ 0 ∨ h ≤ 0 →
      exec (.rect x y w h) s = .next s ∧ exec (.fillrect x y w h) s = .next s ∧
      exec (.roundrect x y w h r) s = .next s ∧ exec (.fillroundrect x y w h r) s = .next s ∧
      exec (.blit x y w h addr) s = .next s ∧ exec (.blitx x y w h addr rot flip) s = .next s) ∧
    (r < 0 → exec (.circle x y r) s = .next s ∧ exec (.fillcircle x y r) s = .next s) ∧
    (inBounds s.cfg x y = false → exec (.setpixel x y) s = .next s) ∧
    (∀ (ps : List Pixel) (c : Colour), (∀ p ∈ ps, inBounds s.cfg p.1 p.2 = false) → s.paint ps c = s)

/-- R121, R124, R125: LINE, TRIANGLE, FILLTRIANGLE, CIRCLE, FILLCIRCLE, ROUNDRECT and FILLROUNDRECT complete from every
state and every operand value, and paint exactly the in-bounds part of their pixel sets in FG. -/
def Obligations.ShapesPaintTheirPixels : Prop :=
  ∀ (s : State) (x0 y0 x1 y1 x2 y2 r : Int),
    (∃ t, exec (.line x0 y0 x1 y1) s = .next t ∧ Paints s t (fun x y => (x, y) ∈ linePixels x0 y0 x1 y1) s.fg) ∧
    (∃ t, exec (.triangle x0 y0 x1 y1 x2 y2) s = .next t ∧
      Paints s t (fun x y => (x, y) ∈ trianglePixels x0 y0 x1 y1 x2 y2) s.fg) ∧
    (∃ t, exec (.filltriangle x0 y0 x1 y1 x2 y2) s = .next t ∧
      Paints s t (fun x y => (x, y) ∈ filltrianglePixels x0 y0 x1 y1 x2 y2) s.fg) ∧
    (∃ t, exec (.circle x0 y0 r) s = .next t ∧ Paints s t (fun x y => (x, y) ∈ circlePixels x0 y0 r) s.fg) ∧
    (∃ t, exec (.fillcircle x0 y0 r) s = .next t ∧ Paints s t (fun x y => (x, y) ∈ fillcirclePixels x0 y0 r) s.fg) ∧
    (∃ t, exec (.roundrect x0 y0 x1 y1 r) s = .next t ∧
      Paints s t (fun x y => (x, y) ∈ roundrectPixels x0 y0 x1 y1 r) s.fg) ∧
    (∃ t, exec (.fillroundrect x0 y0 x1 y1 r) s = .next t ∧
      Paints s t (fun x y => (x, y) ∈ fillroundrectPixels x0 y0 x1 y1 r) s.fg)

/-- R133: the pixels of LINE in closed form. Vertical and horizontal lines are the runs between their endpoints. Of a line
that is no steeper than 45 degrees, pixel `k` from the left is `k` columns right and `(k * dy + dx - 1 - dx div 2) div dx`
rows along; a steeper one is the same with the axes exchanged. -/
def Obligations.LinePixelsClosedForm : Prop :=
  ∀ (x0 y0 x1 y1 : Int) (p : Pixel),
    (x0 = x1 → (p ∈ linePixels x0 y0 x1 y1 ↔ p.1 = x0 ∧ min y0 y1 ≤ p.2 ∧ p.2 ≤ max y0 y1)) ∧
    (y0 = y1 → (p ∈ linePixels x0 y0 x1 y1 ↔ p.2 = y0 ∧ min x0 x1 ≤ p.1 ∧ p.1 ≤ max x0 x1)) ∧
    (x0 < x1 → y0 ≠ y1 → ((y1 - y0).natAbs : Int) ≤ x1 - x0 →
      (p ∈ linePixels x0 y0 x1 y1 ↔ ∃ k : Nat, (k : Int) ≤ x1 - x0 ∧ p.1 = x0 + k ∧
        p.2 = y0 + (y1 - y0).sign * ((k * (y1 - y0).natAbs + (x1 - x0) - 1 - (x1 - x0) / 2) / (x1 - x0)))) ∧
    (y0 < y1 → x0 ≠ x1 → ((x1 - x0).natAbs : Int) < y1 - y0 →
      (p ∈ linePixels x0 y0 x1 y1 ↔ ∃ k : Nat, (k : Int) ≤ y1 - y0 ∧ p.2 = y0 + k ∧
        p.1 = x0 + (x1 - x0).sign * ((k * (x1 - x0).natAbs + (y1 - y0) - 1 - (y1 - y0) / 2) / (y1 - y0))))

/-- R136: LINE writes the same pixels in both endpoint orders, and the degenerate cases write what the general loop
would. -/
def Obligations.LineIgnoresEndpointOrder : Prop :=
  ∀ x0 y0 x1 y1 : Int,
    SamePixels (linePixels x0 y0 x1 y1) (linePixels x1 y1 x0 y0) ∧
    SamePixels (linePixels x0 y0 x1 y1) (lineGeneral x0 y0 x1 y1)

/-- R134: RECT completes and paints exactly the border of [x, x+w) x [y, y+h). -/
def Obligations.RectPaintsBorder : Prop :=
  ∀ (s : State) (x y w h : Int), ∃ t, exec (.rect x y w h) s = .next t ∧
    Paints s t (fun px py => (x ≤ px ∧ px < x + w ∧ y ≤ py ∧ py < y + h) ∧
      (px = x ∨ px = x + w - 1 ∨ py = y ∨ py = y + h - 1)) s.fg

/-- R135: FILLRECT completes and paints exactly [x, x+w) x [y, y+h). -/
def Obligations.FillrectPaintsRectangle : Prop :=
  ∀ (s : State) (x y w h : Int), ∃ t, exec (.fillrect x y w h) s = .next t ∧
    Paints s t (fun px py => x ≤ px ∧ px < x + w ∧ y ≤ py ∧ py < y + h) s.fg

/-! ### Circles and rounded rectangles -/

/-- R140: `Walk(r)` is one octant of the circle: its entries have x = 1, 2, 3, ..., every entry is within half a pixel of
the circle of radius r (r^2 lies between x^2 + y^2 - y and x^2 + y^2 + y), all but the last have x < y, the last has not,
and there are at most r. -/
def Obligations.WalkTracksTheCircle : Prop :=
  ∀ r : Int, 0 ≤ r →
    ((walk r).length : Int) ≤ r ∧ (0 < r → walk r ≠ []) ∧
    ∀ (k : Nat) (x y : Int), (walk r)[k]? = some (x, y) →
      x = k + 1 ∧ 0 ≤ y ∧ y ≤ r ∧ x * x + y * y - y ≤ r * r ∧ r * r ≤ x * x + y * y + y ∧
      (x ≤ y → x * x + y * y - y < r * r) ∧ (x < y ↔ k + 1 < (walk r).length)

/-- R141, R142, R143, R144: CIRCLE is the four axis points and the walk of one octant mirrored into the eight. FILLCIRCLE is
the centre row and, for each walk entry `(a, b)`, the runs of half width `a` on the rows at distance `b` and of half width
`b` on the rows at distance `a`. -/
def Obligations.CirclesFromTheWalk : Prop :=
  ∀ (x0 y0 r : Int) (p : Pixel), ∀ u v : Int, u = (p.1 - x0).natAbs → v = (p.2 - y0).natAbs →
    (p ∈ circlePixels x0 y0 r ↔ 0 ≤ r ∧
      (u = 0 ∧ v = r ∨ u = r ∧ v = 0 ∨ (u, v) ∈ walk r ∨ (v, u) ∈ walk r)) ∧
    (p ∈ fillcirclePixels x0 y0 r ↔ 0 ≤ r ∧
      (v = 0 ∧ u ≤ r ∨ ∃ a b, (a, b) ∈ walk r ∧ (v = b ∧ u ≤ a ∨ v = a ∧ u ≤ b)))

/-- R145: every pixel of CIRCLE is a pixel of FILLCIRCLE for the same centre and radius. -/
def Obligations.CircleInsideFillcircle : Prop :=
  ∀ (x0 y0 r : Int) (p : Pixel), p ∈ circlePixels x0 y0 r → p ∈ fillcirclePixels x0 y0 r

/-- R146: CIRCLE and FILLCIRCLE are symmetric under the eight symmetries of the square about the centre (the two mirrors
and the exchange of the offsets generate them), and FILLCIRCLE covers exactly the rows y0 - r to y0 + r, each with one
contiguous run. -/
def Obligations.CircleSymmetryAndRows : Prop :=
  ∀ x0 y0 r dx dy : Int,
    ((x0 + dx, y0 + dy) ∈ circlePixels x0 y0 r →
      (x0 - dx, y0 + dy) ∈ circlePixels x0 y0 r ∧ (x0 + dx, y0 - dy) ∈ circlePixels x0 y0 r ∧
      (x0 + dy, y0 + dx) ∈ circlePixels x0 y0 r) ∧
    ((x0 + dx, y0 + dy) ∈ fillcirclePixels x0 y0 r →
      (x0 - dx, y0 + dy) ∈ fillcirclePixels x0 y0 r ∧ (x0 + dx, y0 - dy) ∈ fillcirclePixels x0 y0 r ∧
      (x0 + dy, y0 + dx) ∈ fillcirclePixels x0 y0 r) ∧
    ((∃ x, (x, y0 + dy) ∈ fillcirclePixels x0 y0 r) ↔ -r ≤ dy ∧ dy ≤ r) ∧
    (∀ a b c, a ≤ b → b ≤ c → (a, y0 + dy) ∈ fillcirclePixels x0 y0 r → (c, y0 + dy) ∈ fillcirclePixels x0 y0 r →
      (b, y0 + dy) ∈ fillcirclePixels x0 y0 r)

/-- R160: the radius actually drawn. -/
def Obligations.ClampedRadius : Prop :=
  ∀ w h r : Int, 0 < w → 0 < h →
    0 ≤ clampR w h r ∧ 2 * clampR w h r ≤ w ∧ 2 * clampR w h r ≤ h ∧
    (r ≤ 0 → clampR w h r = 0) ∧ (0 ≤ r → 2 * r ≤ min w h → clampR w h r = r) ∧
    (min w h / 2 ≤ r → clampR w h r = min w h / 2)

/-- R161, R162: with the clamped radius `c`, ROUNDRECT is the four inset edges and, in the four corners, the arc of the walk
mirrored; FILLROUNDRECT is the full rows between the corners and, for each walk entry, the stretched runs of the two
corner bands. `u` and `v` are the offsets from the top-left, `u'` and `v'` those from either side. -/
def Obligations.RoundrectsFromTheWalk : Prop :=
  ∀ (x y w h r : Int) (p : Pixel), ∀ u v c : Int, u = p.1 - x → v = p.2 - y → c = clampR w h r →
    (p ∈ roundrectPixels x y w h r ↔ 0 < w ∧ 0 < h ∧
      ((v = 0 ∨ v = h - 1) ∧ c ≤ u ∧ u < w - c ∨ (u = 0 ∨ u = w - 1) ∧ c ≤ v ∧ v < h - c ∨
        ∃ u' v', (u' = u ∨ u' = w - 1 - u) ∧ (v' = v ∨ v' = h - 1 - v) ∧
          ((c - u', c - v') ∈ walk c ∨ (c - v', c - u') ∈ walk c))) ∧
    (p ∈ fillroundrectPixels x y w h r ↔ 0 < w ∧ 0 < h ∧
      (0 ≤ u ∧ u < w ∧ c ≤ v ∧ v < h - c ∨
        ∃ a b v', (a, b) ∈ walk c ∧ (v' = v ∨ v' = h - 1 - v) ∧
          (v' = c - b ∧ min (c - a) (w - 1 - c + a) ≤ u ∧ u ≤ max (c - a) (w - 1 - c + a) ∨
            v' = c - a ∧ min (c - b) (w - 1 - c + b) ≤ u ∧ u ≤ max (c - b) (w - 1 - c + b))))

/-- R163: with a radius clamped to 0, ROUNDRECT writes RECT's pixels and FILLROUNDRECT writes FILLRECT's. -/
def Obligations.ZeroRadiusIsPlainRectangle : Prop :=
  ∀ x y w h r : Int, clampR w h r = 0 →
    SamePixels (roundrectPixels x y w h r) (rectPixels x y w h) ∧
    SamePixels (fillroundrectPixels x y w h r) (fillrectPixels x y w h)

/-- R164: ROUNDRECT's pixels are among FILLROUNDRECT's, and both lie in the bounding box. -/
def Obligations.RoundrectInsideFillroundrect : Prop :=
  ∀ (x y w h r : Int) (p : Pixel),
    (p ∈ roundrectPixels x y w h r → p ∈ fillroundrectPixels x y w h r) ∧
    (p ∈ fillroundrectPixels x y w h r → x ≤ p.1 ∧ p.1 < x + w ∧ y ≤ p.2 ∧ p.2 < y + h)

/-! ### Triangles -/

/-- R150: TRIANGLE is its three LINEs run one after the other, and its pixels do not depend on the order of the vertices
(the two exchanges generate every order). -/
def Obligations.TriangleIsThreeLines : Prop :=
  ∀ (s : State) (x0 y0 x1 y1 x2 y2 : Int),
    (∃ t u v, exec (.line x0 y0 x1 y1) s = .next t ∧ exec (.line x1 y1 x2 y2) t = .next u ∧
      exec (.line x2 y2 x0 y0) u = .next v ∧ exec (.triangle x0 y0 x1 y1 x2 y2) s = .next v) ∧
    SamePixels (trianglePixels x0 y0 x1 y1 x2 y2) (trianglePixels x1 y1 x0 y0 x2 y2) ∧
    SamePixels (trianglePixels x0 y0 x1 y1 x2 y2) (trianglePixels x0 y0 x2 y2 x1 y1)

/-- R151: the pixels of FILLTRIANGLE in closed form, for vertices in order of `y`. Three vertices on one row give the run
from the leftmost to the rightmost. Otherwise each row from y0 to y2 is the run between the edge 0-2 and, above the middle
vertex's row (or down to it where it is the last), the edge 0-1, else the edge 1-2, with truncating division. -/
def Obligations.FilltriangleRows : Prop :=
  ∀ (x0 y0 x1 y1 x2 y2 : Int) (p : Pixel), y0 ≤ y1 → y1 ≤ y2 →
    (y0 = y2 → (p ∈ filltrianglePixels x0 y0 x1 y1 x2 y2 ↔
      p.2 = y0 ∧ min x0 (min x1 x2) ≤ p.1 ∧ p.1 ≤ max x0 (max x1 x2))) ∧
    (y0 < y2 → ∀ a b : Int,
      a = (if p.2 < y1 ∨ y1 = y2 then x0 + ((x1 - x0) * (p.2 - y0)).tdiv (y1 - y0)
        else x1 + ((x2 - x1) * (p.2 - y1)).tdiv (y2 - y1)) →
      b = x0 + ((x2 - x0) * (p.2 - y0)).tdiv (y2 - y0) →
      (p ∈ filltrianglePixels x0 y0 x1 y1 x2 y2 ↔ y0 ≤ p.2 ∧ p.2 ≤ y2 ∧ min a b ≤ p.1 ∧ p.1 ≤ max a b))

/-- R151: the pixels of FILLTRIANGLE do not depend on the order in which the vertices are given. -/
def Obligations.FilltriangleIgnoresVertexOrder : Prop :=
  ∀ x0 y0 x1 y1 x2 y2 : Int,
    SamePixels (filltrianglePixels x0 y0 x1 y1 x2 y2) (filltrianglePixels x1 y1 x0 y0 x2 y2) ∧
    SamePixels (filltrianglePixels x0 y0 x1 y1 x2 y2) (filltrianglePixels x0 y0 x2 y2 x1 y1)

/-! ### Blits -/

/-- R60, R61: only the outside writes SrcMem. Its write changes the one byte and nothing of the engine, and sets the
model's flag srcMoved, also where it stores the byte already there (log 5, DESIGN CHOICE). While the flag is clear a
blit's read gives the byte at the address modulo 2^32; else it gives a free value of the model (log 5). -/
def Obligations.SourceMemoryIsReadOnlyAndWraps : Prop :=
  (∀ s t : State, step s = .next t → t.srcMem ≠ s.srcMem → ∃ a b, (nextTurn s).1 = .source a b) ∧
  (∀ (s : State) (a : Word) (b : Byte), (nextTurn s).1 = .source a b →
    ∃ t, step s = .next t ∧ SameEngine s t ∧ t.srcMoved = true ∧ t.srcByte a.toNat = b ∧
      ∀ a', a' ≠ a.toNat → t.srcByte a' = s.srcByte a') ∧
  ∀ (s : State) (call addr : Nat),
    (s.srcMoved = false → s.memRead call addr = s.srcByte (addr % 4294967296) ∧
      s.memRead call (addr + 4294967296) = s.memRead call addr) ∧
    (s.srcMoved = true → s.memRead call addr = Config.freeSrcByte s.draws call)

/-- R172: the transform of each rotation, and each flip in the rotated frame. -/
def Obligations.TransformTable : Prop :=
  ∀ (c r w h : Int) (rot : BitmapRot),
    xform c r w h .r0 .noflip = (c, r) ∧ xform c r w h .ccw .noflip = (r, w - 1 - c) ∧
    xform c r w h .r180 .noflip = (w - 1 - c, h - 1 - r) ∧ xform c r w h .cw .noflip = (h - 1 - r, c) ∧
    xform c r w h rot .flipH = (xformW w h rot - 1 - (xform c r w h rot .noflip).1, (xform c r w h rot .noflip).2) ∧
    xform c r w h rot .flipV = ((xform c r w h rot .noflip).1, xformH w h rot - 1 - (xform c r w h rot .noflip).2) ∧
    xform c r w h rot .flipHV =
      (xformW w h rot - 1 - (xform c r w h rot .noflip).1, xformH w h rot - 1 - (xform c r w h rot .noflip).2) ∧
    (rot = .r0 ∨ rot = .r180 → xformW w h rot = w ∧ xformH w h rot = h) ∧
    (rot = .ccw ∨ rot = .cw → xformW w h rot = h ∧ xformH w h rot = w)

/-- R176: the transform is a bijection from the source rectangle onto the transformed one. -/
def Obligations.TransformIsBijection : Prop :=
  ∀ (w h : Int) (rot : BitmapRot) (flip : Flip), 0 < w → 0 < h →
    (∀ c r, 0 ≤ c → c < w → 0 ≤ r → r < h →
      0 ≤ (xform c r w h rot flip).1 ∧ (xform c r w h rot flip).1 < xformW w h rot ∧
      0 ≤ (xform c r w h rot flip).2 ∧ (xform c r w h rot flip).2 < xformH w h rot) ∧
    (∀ c r c' r', xform c r w h rot flip = xform c' r' w h rot flip → c = c' ∧ r = r') ∧
    (∀ X Y, 0 ≤ X → X < xformW w h rot → 0 ≤ Y → Y < xformH w h rot →
      ∃ c r, 0 ≤ c ∧ c < w ∧ 0 ≤ r ∧ r < h ∧ xform c r w h rot flip = (X, Y))

/-- R177: rotations 3 and 1 undo each other, rotation 2 and each flip undo themselves, and a transform is undone by its flip
in the transformed frame, then the inverse rotation. -/
def Obligations.TransformInverses : Prop :=
  ∀ (c r w h : Int) (rot inv : BitmapRot) (flip : Flip),
    xform (xform c r w h .cw .noflip).1 (xform c r w h .cw .noflip).2 h w .ccw .noflip = (c, r) ∧
    xform (xform c r w h .ccw .noflip).1 (xform c r w h .ccw .noflip).2 h w .cw .noflip = (c, r) ∧
    xform (xform c r w h .r180 .noflip).1 (xform c r w h .r180 .noflip).2 w h .r180 .noflip = (c, r) ∧
    xform (xform c r w h .r0 flip).1 (xform c r w h .r0 flip).2 w h .r0 flip = (c, r) ∧
    ((rot, inv) ∈ [(BitmapRot.r0, BitmapRot.r0), (.ccw, .cw), (.r180, .r180), (.cw, .ccw)] →
      ∀ p q, p = xform c r w h rot flip → q = xform p.1 p.2 (xformW w h rot) (xformH w h rot) .r0 flip →
        xform q.1 q.2 (xformW w h rot) (xformH w h rot) inv .noflip = (c, r))

/-- R175: BLITX completes from every state. Each source pixel's destination, where in bounds, takes FG if the source bit is
1 and BG if it is 0 (or is left where BG is NONE); every other framebuffer bit reads as before and nothing else changes.
The source bit is bit `r mod 8` of the byte at `addr + c + (r div 8) * w`. -/
def Obligations.BlitxDrawsSource : Prop :=
  ∀ (s : State) (x y w h : Int) (addr : Nat) (rot : BitmapRot) (flip : Flip),
    ∃ t, exec (.blitx x y w h addr rot flip) s = .next t ∧ t = s.setFb t.fb ∧
      (∀ (c r i b : Nat), (c : Int) < w → (r : Int) < h →
        mapPixel s.cfg (x + (xform c r w h rot flip).1) (y + (xform c r w h rot flip).2) = some (i, b) →
        t.fbBit i b =
          if (s.memRead (c * h.toNat + r) (addr + c + r / 8 * w.toNat)).getLsbD (r % 8) then s.fg
          else s.bg.getD (s.fbBit i b)) ∧
      (∀ i b : Nat, (∀ c r : Nat, (c : Int) < w → (r : Int) < h →
          mapPixel s.cfg (x + (xform c r w h rot flip).1) (y + (xform c r w h rot flip).2) ≠ some (i, b)) →
        t.fbBit i b = s.fbBit i b)

/-- R174: BLIT completes from every state and copies source pixel (c, r) to (x + c, y + r) as BLITX does with no rotation
and no flip; every other framebuffer bit reads as before and nothing else changes. -/
def Obligations.BlitDrawsSource : Prop :=
  ∀ (s : State) (x y w h : Int) (addr : Nat),
    ∃ t, exec (.blit x y w h addr) s = .next t ∧ exec (.blitx x y w h addr .r0 .noflip) s = .next t ∧
      t = s.setFb t.fb ∧
      (∀ (c r i b : Nat), (c : Int) < w → (r : Int) < h → mapPixel s.cfg (x + c) (y + r) = some (i, b) →
        t.fbBit i b =
          if (s.memRead (c * h.toNat + r) (addr + c + r / 8 * w.toNat)).getLsbD (r % 8) then s.fg
          else s.bg.getD (s.fbBit i b)) ∧
      (∀ i b : Nat, (∀ c r : Nat, (c : Int) < w → (r : Int) < h → mapPixel s.cfg (x + c) (y + r) ≠ some (i, b)) →
        t.fbBit i b = s.fbBit i b)
end

