-- ==== Sys2Proof/Laws/Decode.lean ====
section
/-!
SUPPORT. Operand words read back as the operands they were packed from, and words are what their operands pack to.
-/
namespace Sys2Proof.Machine

/-- A coordinate with an encoding. -/
theorem coordOk_iff {v : Int} : coordOk v = true ↔ -32768 ≤ v ∧ v ≤ 32767 := by simp [coordOk]

/-- A 16-bit field reads back as the integer it was made from. -/
theorem sext16_ofInt {v : Int} (h : coordOk v = true) : sext16 (BitVec.ofInt 16 v) = v := by
  obtain ⟨h1, h2⟩ := coordOk_iff.mp h
  unfold sext16
  rw [BitVec.toInt_ofInt]
  exact Int.bmod_eq_of_le (by omega) (by omega)

/-- A sign-extended field has an encoding, itself. -/
theorem coordOk_sext16 (v : Half) : coordOk (sext16 v) = true := by
  have h1 := BitVec.le_toInt v
  have h2 := BitVec.toInt_lt (x := v)
  rw [coordOk_iff]
  unfold sext16
  omega

/-- A bit of a word made of two halves. -/
theorem getLsbD_halves (hi lo : Half) (i : Nat) :
    BitVec.getLsbD (w := 32) (hi ++ lo) i = if i < 16 then lo.getLsbD i else hi.getLsbD (i - 16) := by
  have h : BitVec.getLsbD (w := 32) (hi ++ lo) i = BitVec.getLsbD (w := 16 + 16) (hi ++ lo) i := rfl
  rw [h, BitVec.getLsbD_append]

@[simp] theorem loHalf_append (hi lo : Half) : loHalf (hi ++ lo) = lo := by
  apply BitVec.eq_of_getLsbD_eq
  intro i hi'
  simp only [loHalf, BitVec.getLsbD_extractLsb', hi', decide_true, Bool.true_and, getLsbD_halves, Nat.zero_add, if_true]

@[simp] theorem hiHalf_append (hi lo : Half) : hiHalf (hi ++ lo) = hi := by
  apply BitVec.eq_of_getLsbD_eq
  intro i hi'
  have h1 : ¬ 16 + i < 16 := by omega
  have h2 : 16 + i - 16 = i := by omega
  simp only [hiHalf, BitVec.getLsbD_extractLsb', hi', decide_true, Bool.true_and, getLsbD_halves, h1, h2, if_false]

/-- A word is its two halves. -/
theorem append_halves (w : Word) : hiHalf w ++ loHalf w = w := by
  apply BitVec.eq_of_getLsbD_eq
  intro i hi'
  rw [BitVec.getLsbD_append]
  by_cases h : i < 16
  · simp [loHalf, h]
  · have h1 : 16 + (i - 16) = i := by omega
    have h2 : i - 16 < 16 := by omega
    simp [hiHalf, h, h1, h2]

theorem fieldLo_packPair {lo : Int} (hi : Int) (h : coordOk lo = true) : fieldLo (packPair lo hi) = lo := by
  simp [fieldLo, packPair, sext16_ofInt h]

theorem fieldHi_packPair {hi : Int} (lo : Int) (h : coordOk hi = true) : fieldHi (packPair lo hi) = hi := by
  simp [fieldHi, packPair, sext16_ofInt h]

theorem fieldLo_packRadius {r : Int} (h : coordOk r = true) : fieldLo (packRadius r) = r := by
  simp [fieldLo, packRadius, sext16_ofInt h]

theorem operandOk_packRadius (r : Int) : operandOk .radius (packRadius r) = true := by
  simp [operandOk, packRadius]

theorem fieldAddr_packAddr {a : Nat} (h : addrOk a = true) : fieldAddr (packAddr a) = a := by
  have : a < 4294967296 := by simpa [addrOk] using h
  simp only [fieldAddr, packAddr, BitVec.toNat_ofNat]
  omega

theorem packPair_fields (w : Word) : packPair (fieldLo w) (fieldHi w) = w := by
  simp [packPair, fieldLo, fieldHi, sext16, append_halves]

theorem packRadius_field {w : Word} (h : operandOk .radius w = true) : packRadius (fieldLo w) = w := by
  have h0 : hiHalf w = 0 := by simpa [operandOk] using h
  have := append_halves w
  rw [h0] at this
  simpa [packRadius, fieldLo, sext16] using this

theorem packAddr_field (w : Word) : packAddr (fieldAddr w) = w := by simp [packAddr, fieldAddr]

theorem hiHalf_packRadius (r : Int) : hiHalf (packRadius r) = 0 := by simp [packRadius]

/-- A header word with no field set is its command's. -/
theorem headerOp_opMatch (op : Op) : headerOp (opMatch op) = .ok op := by cases op <;> decide

/-- The header words of SETFG. -/
theorem headerOp_setfg (fg : Colour) : headerOp (opMatch .setfg ||| colourBit fg 8) = .ok .setfg := by
  cases fg <;> decide

/-- The header words of SETFGBG. -/
theorem headerOp_setfgbg (fg bg : Colour) :
    headerOp (opMatch .setfgbg ||| colourBit fg 8 ||| colourBit bg 9) = .ok .setfgbg := by
  cases fg <;> cases bg <;> decide

/-- The header words of BLITX. -/
theorem headerOp_blitx (rot : BitmapRot) (flip : Flip) :
    headerOp (opMatch .blitx ||| rotBits rot ||| flipBits flip) = .ok .blitx := by
  cases rot <;> cases flip <;> decide

/-- The header fields read back. -/
theorem header_fields (fg bg : Colour) (rot : BitmapRot) (flip : Flip) :
    headerFg (opMatch .setfg ||| colourBit fg 8) = fg ∧
    headerFg (opMatch .setfgbg ||| colourBit fg 8 ||| colourBit bg 9) = fg ∧
    headerBg (opMatch .setfgbg ||| colourBit fg 8 ||| colourBit bg 9) = bg ∧
    headerRot (opMatch .blitx ||| rotBits rot ||| flipBits flip) = rot ∧
    headerFlip (opMatch .blitx ||| rotBits rot ||| flipBits flip) = flip := by
  refine ⟨?_, ?_, ?_, ?_, ?_⟩
  · cases fg <;> decide
  · cases fg <;> cases bg <;> decide
  · cases fg <;> cases bg <;> decide
  · cases rot <;> cases flip <;> decide
  · cases rot <;> cases flip <;> decide

end Sys2Proof.Machine
end

