-- ==== Sys2Proof/Laws/Memory.lean ====
section
/-!
SUPPORT. What the memory operations do: read after write, frame, and that each keeps the canonical form.
-/
namespace Sys2Proof.Machine

/-- A read after a write to the same address gives the written byte. -/
@[simp] theorem lookup_update_same (m : Memory) (a : Nat) (d : Byte) (f : Byte → Byte) :
    lookup (update m a d f) a = some (f ((lookup m a).getD d)) := by
  induction m with
  | nil => simp [update, lookup]
  | cons c m ih =>
    obtain ⟨k, v⟩ := c
    by_cases hk : k = a
    · simp [update, lookup, hk]
    · by_cases hlt : a < k <;> simp [update, lookup, hk, hlt, ih]

/-- A write leaves every other address alone. -/
theorem lookup_update_ne (m : Memory) {a b : Nat} (h : b ≠ a) (d : Byte) (f : Byte → Byte) :
    lookup (update m a d f) b = lookup m b := by
  induction m with
  | nil => simp [update, lookup, Ne.symm h]
  | cons c m ih =>
    obtain ⟨k, v⟩ := c
    by_cases hk : k = a
    · subst hk
      simp [update, lookup, Ne.symm h]
    · by_cases hlt : a < k
      · simp only [update, hk, hlt, if_false, if_true]
        by_cases hb : b < a
        · have hkb : k ≠ b := by omega
          have hbk : b < k := by omega
          simp [lookup, Ne.symm h, hb, hkb, hbk]
        · simp [lookup, Ne.symm h, hb]
      · simp [update, lookup, hk, hlt, ih]

/-- Every cell of a written memory is the written address's or was there before. -/
theorem mem_update {m : Memory} {a : Nat} {d : Byte} {f : Byte → Byte} {c : Host.Cell} (h : c ∈ update m a d f) :
    c.1 = a ∨ c ∈ m := by
  induction m with
  | nil => simp_all [update]
  | cons e m ih =>
    obtain ⟨k, v⟩ := e
    by_cases hk : k = a
    · simp only [update, hk, if_true, List.mem_cons] at h ⊢
      rcases h with rfl | h
      · exact .inl rfl
      · exact .inr (.inr h)
    · by_cases hlt : a < k
      · simp only [update, hk, hlt, if_false, if_true, List.mem_cons] at h ⊢
        rcases h with rfl | h
        · exact .inl rfl
        · exact .inr h
      · simp only [update, hk, hlt, if_false, List.mem_cons] at h ⊢
        rcases h with rfl | h
        · exact .inr (.inl rfl)
        · exact (ih h).imp_right .inr

/-- A write keeps the canonical form. -/
theorem update_wf {m : Memory} (h : Memory.wf m) (a : Nat) (d : Byte) (f : Byte → Byte) :
    Memory.wf (update m a d f) := by
  induction m with
  | nil => simp [update, Memory.wf]
  | cons e m ih =>
    obtain ⟨k, v⟩ := e
    obtain ⟨hhead, htail⟩ := List.pairwise_cons.mp h
    by_cases hk : k = a
    · subst hk
      simpa [update, Memory.wf] using h
    · by_cases hlt : a < k
      · simp only [update, hk, hlt, if_false, if_true]
        refine List.pairwise_cons.mpr ⟨?_, h⟩
        intro c hc
        rcases List.mem_cons.mp hc with rfl | hc
        · exact hlt
        · exact Nat.lt_trans hlt (hhead c hc)
      · simp only [update, hk, hlt, if_false]
        refine List.pairwise_cons.mpr ⟨?_, ih htail⟩
        intro c hc
        rcases mem_update hc with h1 | h1
        · simp only [h1]; omega
        · exact hhead c h1

/-- A write below a bound keeps every listed address below it. -/
theorem update_below {n : Nat} {m : Memory} (h : Memory.below n m) {a : Nat} (ha : a < n) (d : Byte)
    (f : Byte → Byte) : Memory.below n (update m a d f) := by
  intro c hc
  rcases mem_update hc with h1 | h1
  · omega
  · exact h c h1

/-- The canonical form of the cleared memory. -/
theorem zeros_wf (n : Nat) : Memory.wf (zeros n) := by
  unfold zeros Memory.wf
  rw [List.pairwise_map]
  exact List.pairwise_lt_range

/-- The cleared memory lists nothing from `n` up. -/
theorem zeros_below (n : Nat) : Memory.below n (zeros n) := by
  intro c hc
  obtain ⟨i, hi, rfl⟩ := List.mem_map.mp hc
  exact List.mem_range.mp hi

/-- A lookup below every listed address finds nothing. -/
theorem lookup_of_lt {m : Memory} {a : Nat} (h : ∀ c ∈ m, a < c.1) : lookup m a = none := by
  cases m with
  | nil => rfl
  | cons e m =>
    obtain ⟨k, v⟩ := e
    have hk : a < k := h (k, v) (by simp)
    have hne : k ≠ a := by omega
    simp [lookup, hk, hne]

/-- In the canonical form, a lookup finds exactly the listed cells. -/
theorem lookup_eq_some_iff {m : Memory} (h : Memory.wf m) (a : Nat) (v : Byte) :
    lookup m a = some v ↔ (a, v) ∈ m := by
  induction m with
  | nil => simp [lookup]
  | cons e m ih =>
    obtain ⟨k, u⟩ := e
    obtain ⟨hhead, htail⟩ := List.pairwise_cons.mp h
    by_cases hk : k = a
    · subst hk
      have hno : ∀ w, (k, w) ∉ m := fun w hw => Nat.lt_irrefl k (hhead (k, w) hw)
      simp [lookup, hno, eq_comm]
    · by_cases hlt : a < k
      · have hno : ∀ w, (a, w) ∉ m := fun w hw => by have := hhead (a, w) hw; simp at this; omega
        simp [lookup, hk, hlt, hno, Ne.symm hk]
      · simp [lookup, hk, hlt, ih htail, Ne.symm hk]

/-- Every byte of the cleared memory is 0. -/
theorem lookup_zeros {n i : Nat} (h : i < n) : lookup (zeros n) i = some 0 := by
  rw [lookup_eq_some_iff (zeros_wf n)]
  exact List.mem_map.mpr ⟨i, List.mem_range.mpr h, rfl⟩

end Sys2Proof.Machine
end

