-- ==== Sys2Proof/Laws/State.lean ====
section
/-!
SUPPORT. One lemma per field for each named update of the state, so that no later proof unfolds a record update.
-/
namespace Sys2Proof.Machine

section setFb

variable (s : State) (m : Memory)

@[simp] theorem setFb_cfg : (s.setFb m).cfg = s.cfg := rfl
@[simp] theorem setFb_fb : (s.setFb m).fb = m := rfl
@[simp] theorem setFb_fg : (s.setFb m).fg = s.fg := rfl
@[simp] theorem setFb_bg : (s.setFb m).bg = s.bg := rfl
@[simp] theorem setFb_result : (s.setFb m).result = s.result := rfl
@[simp] theorem setFb_status : (s.setFb m).status = s.status := rfl
@[simp] theorem setFb_errWord : (s.setFb m).errWord = s.errWord := rfl
@[simp] theorem setFb_pkt : (s.setFb m).pkt = s.pkt := rfl
@[simp] theorem setFb_phase : (s.setFb m).phase = s.phase := rfl
@[simp] theorem setFb_held : (s.setFb m).held = s.held := rfl
@[simp] theorem setFb_host : (s.setFb m).host = s.host := rfl
@[simp] theorem setFb_turns : (s.setFb m).turns = s.turns := rfl
@[simp] theorem setFb_srcMem : (s.setFb m).srcMem = s.srcMem := rfl
@[simp] theorem setFb_srcMoved : (s.setFb m).srcMoved = s.srcMoved := rfl
@[simp] theorem setFb_regAnswer : (s.setFb m).regAnswer = s.regAnswer := rfl
@[simp] theorem setFb_portAnswer : (s.setFb m).portAnswer = s.portAnswer := rfl
@[simp] theorem setFb_fbDraw : (s.setFb m).fbDraw = s.fbDraw := rfl
@[simp] theorem setFb_draws : (s.setFb m).draws = s.draws := rfl

end setFb

section setColours

variable (s : State) (fg : Colour) (bg : Option Colour)

@[simp] theorem setColours_cfg : (s.setColours fg bg).cfg = s.cfg := rfl
@[simp] theorem setColours_fb : (s.setColours fg bg).fb = s.fb := rfl
@[simp] theorem setColours_fg : (s.setColours fg bg).fg = fg := rfl
@[simp] theorem setColours_bg : (s.setColours fg bg).bg = bg := rfl
@[simp] theorem setColours_result : (s.setColours fg bg).result = s.result := rfl
@[simp] theorem setColours_status : (s.setColours fg bg).status = s.status := rfl
@[simp] theorem setColours_errWord : (s.setColours fg bg).errWord = s.errWord := rfl
@[simp] theorem setColours_pkt : (s.setColours fg bg).pkt = s.pkt := rfl
@[simp] theorem setColours_phase : (s.setColours fg bg).phase = s.phase := rfl
@[simp] theorem setColours_held : (s.setColours fg bg).held = s.held := rfl
@[simp] theorem setColours_host : (s.setColours fg bg).host = s.host := rfl
@[simp] theorem setColours_turns : (s.setColours fg bg).turns = s.turns := rfl
@[simp] theorem setColours_srcMem : (s.setColours fg bg).srcMem = s.srcMem := rfl
@[simp] theorem setColours_srcMoved : (s.setColours fg bg).srcMoved = s.srcMoved := rfl
@[simp] theorem setColours_regAnswer : (s.setColours fg bg).regAnswer = s.regAnswer := rfl
@[simp] theorem setColours_portAnswer : (s.setColours fg bg).portAnswer = s.portAnswer := rfl
@[simp] theorem setColours_fbDraw : (s.setColours fg bg).fbDraw = s.fbDraw := rfl
@[simp] theorem setColours_draws : (s.setColours fg bg).draws = s.draws := rfl

end setColours

section setResult

variable (s : State) (w : Word)

@[simp] theorem setResult_cfg : (s.setResult w).cfg = s.cfg := rfl
@[simp] theorem setResult_fb : (s.setResult w).fb = s.fb := rfl
@[simp] theorem setResult_fg : (s.setResult w).fg = s.fg := rfl
@[simp] theorem setResult_bg : (s.setResult w).bg = s.bg := rfl
@[simp] theorem setResult_result : (s.setResult w).result = w := rfl
@[simp] theorem setResult_status : (s.setResult w).status = s.status := rfl
@[simp] theorem setResult_errWord : (s.setResult w).errWord = s.errWord := rfl
@[simp] theorem setResult_pkt : (s.setResult w).pkt = s.pkt := rfl
@[simp] theorem setResult_phase : (s.setResult w).phase = s.phase := rfl
@[simp] theorem setResult_held : (s.setResult w).held = s.held := rfl
@[simp] theorem setResult_host : (s.setResult w).host = s.host := rfl
@[simp] theorem setResult_turns : (s.setResult w).turns = s.turns := rfl
@[simp] theorem setResult_srcMem : (s.setResult w).srcMem = s.srcMem := rfl
@[simp] theorem setResult_srcMoved : (s.setResult w).srcMoved = s.srcMoved := rfl
@[simp] theorem setResult_regAnswer : (s.setResult w).regAnswer = s.regAnswer := rfl
@[simp] theorem setResult_portAnswer : (s.setResult w).portAnswer = s.portAnswer := rfl
@[simp] theorem setResult_fbDraw : (s.setResult w).fbDraw = s.fbDraw := rfl
@[simp] theorem setResult_draws : (s.setResult w).draws = s.draws := rfl

end setResult

section plotAll

variable (s : State) (ps : List (Pixel × Colour))

@[simp] theorem plotAll_cfg : (s.plotAll ps).cfg = s.cfg := rfl
@[simp] theorem plotAll_fb : (s.plotAll ps).fb = ps.foldl (plotFb s.cfg s.fbDraw) s.fb := rfl
@[simp] theorem plotAll_fg : (s.plotAll ps).fg = s.fg := rfl
@[simp] theorem plotAll_bg : (s.plotAll ps).bg = s.bg := rfl
@[simp] theorem plotAll_result : (s.plotAll ps).result = s.result := rfl
@[simp] theorem plotAll_status : (s.plotAll ps).status = s.status := rfl
@[simp] theorem plotAll_errWord : (s.plotAll ps).errWord = s.errWord := rfl
@[simp] theorem plotAll_pkt : (s.plotAll ps).pkt = s.pkt := rfl
@[simp] theorem plotAll_phase : (s.plotAll ps).phase = s.phase := rfl
@[simp] theorem plotAll_held : (s.plotAll ps).held = s.held := rfl
@[simp] theorem plotAll_host : (s.plotAll ps).host = s.host := rfl
@[simp] theorem plotAll_turns : (s.plotAll ps).turns = s.turns := rfl
@[simp] theorem plotAll_srcMem : (s.plotAll ps).srcMem = s.srcMem := rfl
@[simp] theorem plotAll_srcMoved : (s.plotAll ps).srcMoved = s.srcMoved := rfl
@[simp] theorem plotAll_regAnswer : (s.plotAll ps).regAnswer = s.regAnswer := rfl
@[simp] theorem plotAll_portAnswer : (s.plotAll ps).portAnswer = s.portAnswer := rfl
@[simp] theorem plotAll_fbDraw : (s.plotAll ps).fbDraw = s.fbDraw := rfl
@[simp] theorem plotAll_draws : (s.plotAll ps).draws = s.draws := rfl

end plotAll

section startCommand

variable (s : State)

@[simp] theorem startCommand_cfg : (startCommand s).cfg = s.cfg := rfl
@[simp] theorem startCommand_fb : (startCommand s).fb = s.fb := rfl
@[simp] theorem startCommand_fg : (startCommand s).fg = s.fg := rfl
@[simp] theorem startCommand_bg : (startCommand s).bg = s.bg := rfl
@[simp] theorem startCommand_result : (startCommand s).result = s.result := rfl
@[simp] theorem startCommand_status : (startCommand s).status = statusExecuting := rfl
@[simp] theorem startCommand_errWord : (startCommand s).errWord = s.errWord := rfl
@[simp] theorem startCommand_pkt : (startCommand s).pkt = s.pkt := rfl
@[simp] theorem startCommand_phase : (startCommand s).phase = .executing := rfl
@[simp] theorem startCommand_held : (startCommand s).held = s.held := rfl
@[simp] theorem startCommand_host : (startCommand s).host = s.host := rfl
@[simp] theorem startCommand_turns : (startCommand s).turns = s.turns := rfl
@[simp] theorem startCommand_srcMem : (startCommand s).srcMem = s.srcMem := rfl
@[simp] theorem startCommand_srcMoved : (startCommand s).srcMoved = false := rfl
@[simp] theorem startCommand_regAnswer : (startCommand s).regAnswer = s.regAnswer := rfl
@[simp] theorem startCommand_portAnswer : (startCommand s).portAnswer = s.portAnswer := rfl
@[simp] theorem startCommand_fbDraw : (startCommand s).fbDraw = s.fbDraw := rfl
@[simp] theorem startCommand_draws : (startCommand s).draws = s.draws := rfl

end startCommand

section finishCommand

variable (s : State)

@[simp] theorem finishCommand_cfg : (finishCommand s).cfg = s.cfg := rfl
@[simp] theorem finishCommand_fb : (finishCommand s).fb = s.fb := rfl
@[simp] theorem finishCommand_fg : (finishCommand s).fg = s.fg := rfl
@[simp] theorem finishCommand_bg : (finishCommand s).bg = s.bg := rfl
@[simp] theorem finishCommand_result : (finishCommand s).result = s.result := rfl
@[simp] theorem finishCommand_status : (finishCommand s).status = Status.clear := rfl
@[simp] theorem finishCommand_errWord : (finishCommand s).errWord = s.errWord := rfl
@[simp] theorem finishCommand_pkt : (finishCommand s).pkt = [] := rfl
@[simp] theorem finishCommand_phase : (finishCommand s).phase = .idle := rfl
@[simp] theorem finishCommand_held : (finishCommand s).held = s.held := rfl
@[simp] theorem finishCommand_host : (finishCommand s).host = s.host := rfl
@[simp] theorem finishCommand_turns : (finishCommand s).turns = s.turns := rfl
@[simp] theorem finishCommand_srcMem : (finishCommand s).srcMem = s.srcMem := rfl
@[simp] theorem finishCommand_srcMoved : (finishCommand s).srcMoved = s.srcMoved := rfl
@[simp] theorem finishCommand_regAnswer : (finishCommand s).regAnswer = s.regAnswer := rfl
@[simp] theorem finishCommand_portAnswer : (finishCommand s).portAnswer = s.portAnswer := rfl
@[simp] theorem finishCommand_fbDraw : (finishCommand s).fbDraw = s.fbDraw := rfl
@[simp] theorem finishCommand_draws : (finishCommand s).draws = s.draws + 1 := rfl

end finishCommand

section cmdError

variable (e : CmdErr) (w : Word) (s : State)

@[simp] theorem cmdError_cfg : (cmdError e w s).cfg = s.cfg := rfl
@[simp] theorem cmdError_fb : (cmdError e w s).fb = s.fb := rfl
@[simp] theorem cmdError_fg : (cmdError e w s).fg = s.fg := rfl
@[simp] theorem cmdError_bg : (cmdError e w s).bg = s.bg := rfl
@[simp] theorem cmdError_result : (cmdError e w s).result = s.result := rfl
@[simp] theorem cmdError_status : (cmdError e w s).status = statusHalted e := rfl
@[simp] theorem cmdError_errWord : (cmdError e w s).errWord = w := rfl
@[simp] theorem cmdError_pkt : (cmdError e w s).pkt = [] := rfl
@[simp] theorem cmdError_phase : (cmdError e w s).phase = .halted := rfl
@[simp] theorem cmdError_held : (cmdError e w s).held = s.held := rfl
@[simp] theorem cmdError_host : (cmdError e w s).host = s.host := rfl
@[simp] theorem cmdError_turns : (cmdError e w s).turns = s.turns := rfl
@[simp] theorem cmdError_srcMem : (cmdError e w s).srcMem = s.srcMem := rfl
@[simp] theorem cmdError_srcMoved : (cmdError e w s).srcMoved = s.srcMoved := rfl
@[simp] theorem cmdError_regAnswer : (cmdError e w s).regAnswer = s.regAnswer := rfl
@[simp] theorem cmdError_portAnswer : (cmdError e w s).portAnswer = s.portAnswer := rfl
@[simp] theorem cmdError_fbDraw : (cmdError e w s).fbDraw = s.fbDraw := rfl
@[simp] theorem cmdError_draws : (cmdError e w s).draws = s.draws := rfl

end cmdError

section hardReset

variable (s : State)

@[simp] theorem hardReset_cfg : (hardReset s).cfg = s.cfg := rfl
@[simp] theorem hardReset_fb : (hardReset s).fb = [] := rfl
@[simp] theorem hardReset_fg : (hardReset s).fg = true := rfl
@[simp] theorem hardReset_bg : (hardReset s).bg = none := rfl
@[simp] theorem hardReset_result : (hardReset s).result = 0 := rfl
@[simp] theorem hardReset_status : (hardReset s).status = Status.clear := rfl
@[simp] theorem hardReset_errWord : (hardReset s).errWord = 0 := rfl
@[simp] theorem hardReset_pkt : (hardReset s).pkt = [] := rfl
@[simp] theorem hardReset_phase : (hardReset s).phase = .idle := rfl
@[simp] theorem hardReset_held : (hardReset s).held = none := rfl
@[simp] theorem hardReset_host : (hardReset s).host = s.host := rfl
@[simp] theorem hardReset_turns : (hardReset s).turns = s.turns := rfl
@[simp] theorem hardReset_srcMem : (hardReset s).srcMem = s.srcMem := rfl
@[simp] theorem hardReset_srcMoved : (hardReset s).srcMoved = false := rfl
@[simp] theorem hardReset_regAnswer : (hardReset s).regAnswer = s.regAnswer := rfl
@[simp] theorem hardReset_portAnswer : (hardReset s).portAnswer = s.portAnswer := rfl
@[simp] theorem hardReset_fbDraw : (hardReset s).fbDraw = s.draws := rfl
@[simp] theorem hardReset_draws : (hardReset s).draws = s.draws + 1 := rfl

end hardReset

section hostRead

variable (s : State) (n : BitVec 8)

@[simp] theorem hostRead_cfg : (s.hostRead n).cfg = s.cfg := rfl
@[simp] theorem hostRead_fb : (s.hostRead n).fb = s.fb := rfl
@[simp] theorem hostRead_fg : (s.hostRead n).fg = s.fg := rfl
@[simp] theorem hostRead_bg : (s.hostRead n).bg = s.bg := rfl
@[simp] theorem hostRead_result : (s.hostRead n).result = s.result := rfl
@[simp] theorem hostRead_status : (s.hostRead n).status = s.status := rfl
@[simp] theorem hostRead_errWord : (s.hostRead n).errWord = s.errWord := rfl
@[simp] theorem hostRead_pkt : (s.hostRead n).pkt = s.pkt := rfl
@[simp] theorem hostRead_phase : (s.hostRead n).phase = s.phase := rfl
@[simp] theorem hostRead_held : (s.hostRead n).held = s.held := rfl
@[simp] theorem hostRead_host : (s.hostRead n).host = s.host := rfl
@[simp] theorem hostRead_turns : (s.hostRead n).turns = s.turns := rfl
@[simp] theorem hostRead_srcMem : (s.hostRead n).srcMem = s.srcMem := rfl
@[simp] theorem hostRead_srcMoved : (s.hostRead n).srcMoved = s.srcMoved := rfl
@[simp] theorem hostRead_regAnswer : (s.hostRead n).regAnswer = some (s.readReg n) := rfl
@[simp] theorem hostRead_portAnswer : (s.hostRead n).portAnswer = s.portAnswer := rfl
@[simp] theorem hostRead_fbDraw : (s.hostRead n).fbDraw = s.fbDraw := rfl
@[simp] theorem hostRead_draws : (s.hostRead n).draws = s.draws := rfl

end hostRead

section writeSource

variable (s : State) (a : Word) (b : Byte)

@[simp] theorem writeSource_cfg : (s.writeSource a b).cfg = s.cfg := rfl
@[simp] theorem writeSource_fb : (s.writeSource a b).fb = s.fb := rfl
@[simp] theorem writeSource_fg : (s.writeSource a b).fg = s.fg := rfl
@[simp] theorem writeSource_bg : (s.writeSource a b).bg = s.bg := rfl
@[simp] theorem writeSource_result : (s.writeSource a b).result = s.result := rfl
@[simp] theorem writeSource_status : (s.writeSource a b).status = s.status := rfl
@[simp] theorem writeSource_errWord : (s.writeSource a b).errWord = s.errWord := rfl
@[simp] theorem writeSource_pkt : (s.writeSource a b).pkt = s.pkt := rfl
@[simp] theorem writeSource_phase : (s.writeSource a b).phase = s.phase := rfl
@[simp] theorem writeSource_held : (s.writeSource a b).held = s.held := rfl
@[simp] theorem writeSource_host : (s.writeSource a b).host = s.host := rfl
@[simp] theorem writeSource_turns : (s.writeSource a b).turns = s.turns := rfl
@[simp] theorem writeSource_srcMem : (s.writeSource a b).srcMem = update s.srcMem a.toNat b (fun _ => b) := rfl
@[simp] theorem writeSource_srcMoved : (s.writeSource a b).srcMoved = true := rfl
@[simp] theorem writeSource_regAnswer : (s.writeSource a b).regAnswer = s.regAnswer := rfl
@[simp] theorem writeSource_portAnswer : (s.writeSource a b).portAnswer = s.portAnswer := rfl
@[simp] theorem writeSource_fbDraw : (s.writeSource a b).fbDraw = s.fbDraw := rfl
@[simp] theorem writeSource_draws : (s.writeSource a b).draws = s.draws := rfl

end writeSource

/-- Painting is plotting each pixel in one colour. -/
theorem paint_eq (s : State) (ps : List Pixel) (c : Colour) : s.paint ps c = s.plotAll (ps.map fun p => (p, c)) := rfl

/-- Setting the framebuffer to what it is changes nothing. -/
@[simp] theorem setFb_self (s : State) : s.setFb s.fb = s := rfl

/-- Plotting changes the framebuffer only. -/
theorem plotAll_only (s : State) (ps : List (Pixel × Colour)) : s.plotAll ps = s.setFb (s.plotAll ps).fb := rfl

/-- Plotting nothing changes nothing. -/
@[simp] theorem plotAll_nil (s : State) : s.plotAll [] = s := rfl

/-- Plotting two lists is plotting the first, then the second. -/
theorem plotAll_append (s : State) (ps qs : List (Pixel × Colour)) :
    s.plotAll (ps ++ qs) = (s.plotAll ps).plotAll qs := by
  simp [State.plotAll, List.foldl_append]

end Sys2Proof.Machine
end

