-- ==== Sys2Proof/Laws/Plot.lean ====
section
/-!
SUPPORT. What `Plot` does: where `Map` lands, which bit one `Plot` changes, and what painting a list of pixels leaves.
-/
namespace Sys2Proof.Machine

/-- The bounds of the logical space (R55). -/
theorem inBounds_iff {c : Config} {x y : Int} :
    inBounds c x y = true ↔ 0 ≤ x ∧ x < logicalW c ∧ 0 ≤ y ∧ y < logicalH c := by
  simp [inBounds]

/-- `Map` in closed form: an in-bounds point, and the byte and bit of its native pixel. -/
theorem mapPixel_eq_some_iff {c : Config} {x y : Int} {i b : Nat} :
    mapPixel c x y = some (i, b) ↔
      inBounds c x y = true ∧ nativeBit c (nativeCol c x y).toNat (nativeRow c x y).toNat = (i, b) := by
  unfold mapPixel
  split <;> simp_all

/-- `Map` lands on a native pixel. -/
theorem native_of_inBounds {c : Config} {x y : Int} (h : inBounds c x y = true) :
    0 ≤ nativeCol c x y ∧ nativeCol c x y < nw c ∧ 0 ≤ nativeRow c x y ∧ nativeRow c x y < nh c := by
  have h' := inBounds_iff.mp h
  revert h'
  obtain ⟨w, hh, r, m⟩ := c
  cases r <;> simp only [logicalW, logicalH, nativeCol, nativeRow] <;> omega

/-- A native pixel's byte is a framebuffer byte. -/
theorem nativeBit_lt {c : Config} {col row : Nat} (hc : col < nw c) (hr : row < nh c) :
    (nativeBit c col row).1 < fbBytes c ∧ (nativeBit c col row).2 < 8 := by
  have hg : row / 8 + 1 ≤ rowGroups c := by unfold rowGroups; omega
  have hm : (row / 8 + 1) * nw c ≤ rowGroups c * nw c := Nat.mul_le_mul_right _ hg
  have he : (row / 8 + 1) * nw c = row / 8 * nw c + nw c := by ring
  refine ⟨?_, Nat.mod_lt _ (by omega)⟩
  simp only [nativeBit, fbBytes]
  omega

/-- `Map` yields a byte of the framebuffer and a bit of it. -/
theorem mapPixel_lt {c : Config} {x y : Int} {i b : Nat} (h : mapPixel c x y = some (i, b)) :
    i < fbBytes c ∧ b < 8 := by
  obtain ⟨hin, he⟩ := mapPixel_eq_some_iff.mp h
  have hn := native_of_inBounds hin
  have := nativeBit_lt (c := c) (col := (nativeCol c x y).toNat) (row := (nativeRow c x y).toNat) (by omega) (by omega)
  rw [he] at this
  exact this

/-- The bits of a byte with one bit written. -/
theorem setBit_getLsbD (v : Byte) (b : Nat) (c : Colour) (j : Nat) (hb : b < 8) :
    (setBit v b c).getLsbD j = if j = b then c else v.getLsbD j := by
  by_cases hj : j < 8
  · rcases c with _ | _ <;> by_cases hjb : j = b
    · subst hjb; simp [setBit, hj]
    · have : ¬ (j - b = 0 ∧ b ≤ j) := by omega
      rcases Nat.lt_or_ge j b with h | h
      · simp [setBit, hj, hjb, h]
      · have h2 : j - b ≠ 0 := by omega
        simp [setBit, hj, hjb, h2]
    · subst hjb; simp [setBit, hj]
    · rcases Nat.lt_or_ge j b with h | h
      · simp [setBit, hj, hjb, h]
      · have h2 : j - b ≠ 0 := by omega
        simp [setBit, hj, hjb, h2]
  · have hne : j ≠ b := by omega
    have h8 : 8 ≤ j := by omega
    rw [if_neg hne, BitVec.getLsbD_of_ge _ j h8, BitVec.getLsbD_of_ge _ j h8]

/-- Reading a byte of a state with another framebuffer. -/
theorem fbByte_setFb (s : State) (m : Memory) (i : Nat) :
    (s.setFb m).fbByte i = (lookup m i).getD (Config.freeFbByte s.fbDraw i) := rfl

/-- One `Plot`, bit by bit. -/
theorem plot_fbBit (s : State) (p : Pixel × Colour) (i b : Nat) :
    (s.plotAll [p]).fbBit i b = if mapPixel s.cfg p.1.1 p.1.2 = some (i, b) then p.2 else s.fbBit i b := by
  have hfb : (s.plotAll [p]) = s.setFb (plotFb s.cfg s.fbDraw s.fb p) := rfl
  rw [hfb]
  unfold State.fbBit
  rw [fbByte_setFb]
  cases hm : mapPixel s.cfg p.1.1 p.1.2 with
  | none => simp [plotFb, hm, State.fbByte]
  | some q =>
    obtain ⟨i', b'⟩ := q
    have hb' := (mapPixel_lt hm).2
    by_cases hi : i = i'
    · subst hi
      simp only [plotFb, hm, lookup_update_same, Option.getD_some]
      rw [setBit_getLsbD _ _ _ _ hb']
      by_cases hb : b = b'
      · simp [hb]
      · have : ¬ b' = b := fun h => hb h.symm
        simp [hb, this, State.fbByte]
    · have h2 : ¬ i' = i := fun h => hi h.symm
      simp [plotFb, hm, lookup_update_ne _ hi, h2, State.fbByte]

/-- A bit no `Plot` of a list lands on reads as before. -/
theorem plotAll_fbBit_of_not_hit (s : State) (ps : List (Pixel × Colour)) (i b : Nat)
    (h : ∀ p ∈ ps, mapPixel s.cfg p.1.1 p.1.2 ≠ some (i, b)) : (s.plotAll ps).fbBit i b = s.fbBit i b := by
  induction ps generalizing s with
  | nil => rfl
  | cons p ps ih =>
    have hsplit : s.plotAll (p :: ps) = (s.plotAll [p]).plotAll ps := plotAll_append s [p] ps
    rw [hsplit, ih (s.plotAll [p]) (fun q hq => h q (by simp [hq])), plot_fbBit, if_neg (h p (by simp))]

/-- A bit some `Plot` of a list lands on, all of them in one colour, takes that colour. -/
theorem plotAll_fbBit_of_hit (s : State) (ps : List (Pixel × Colour)) (i b : Nat) (c : Colour)
    (hall : ∀ p ∈ ps, mapPixel s.cfg p.1.1 p.1.2 = some (i, b) → p.2 = c)
    (h : ∃ p ∈ ps, mapPixel s.cfg p.1.1 p.1.2 = some (i, b)) : (s.plotAll ps).fbBit i b = c := by
  induction ps generalizing s with
  | nil => simp at h
  | cons p ps ih =>
    have hsplit : s.plotAll (p :: ps) = (s.plotAll [p]).plotAll ps := plotAll_append s [p] ps
    rw [hsplit]
    by_cases hlater : ∃ q ∈ ps, mapPixel s.cfg q.1.1 q.1.2 = some (i, b)
    · exact ih (s.plotAll [p]) (fun q hq => hall q (by simp [hq])) hlater
    · have hnone : ∀ q ∈ ps, mapPixel (s.plotAll [p]).cfg q.1.1 q.1.2 ≠ some (i, b) :=
        fun q hq hm => hlater ⟨q, hq, hm⟩
      have hp : mapPixel s.cfg p.1.1 p.1.2 = some (i, b) := by
        obtain ⟨q, hq, hm⟩ := h
        rcases List.mem_cons.mp hq with rfl | hq
        · exact hm
        · exact absurd ⟨q, hq, hm⟩ hlater
      rw [plotAll_fbBit_of_not_hit _ _ _ _ hnone, plot_fbBit, if_pos hp]
      exact hall p (by simp) hp

/-- Painting a list of pixels paints exactly its pixel set (R124). -/
theorem paint_paints (s : State) (ps : List Pixel) (c : Colour) :
    Paints s (s.paint ps c) (fun x y => (x, y) ∈ ps) c where
  only := rfl
  inside x y i b hm hin := by
    refine plotAll_fbBit_of_hit s _ i b c ?_ ?_
    · intro p hp _
      obtain ⟨q, _, rfl⟩ := List.mem_map.mp hp
      rfl
    · exact ⟨((x, y), c), List.mem_map.mpr ⟨(x, y), hin, rfl⟩, hm⟩
  outside i b hno := by
    refine plotAll_fbBit_of_not_hit s _ i b ?_
    intro p hp hm
    obtain ⟨q, hq, rfl⟩ := List.mem_map.mp hp
    exact hno q.1 q.2 hm hq

/-- Plotting keeps the framebuffer's canonical form. -/
theorem plotAll_wf {s : State} (h : Memory.wf s.fb) (ps : List (Pixel × Colour)) : Memory.wf (s.plotAll ps).fb := by
  induction ps generalizing s with
  | nil => exact h
  | cons p ps ih =>
    rw [show s.plotAll (p :: ps) = (s.plotAll [p]).plotAll ps from plotAll_append s [p] ps]
    refine ih ?_
    simp only [plotAll_fb, List.foldl_cons, List.foldl_nil, plotFb]
    split
    · exact h
    · exact update_wf h _ _ _

/-- Plotting lists framebuffer bytes only. -/
theorem plotAll_below {s : State} (h : Memory.below (fbBytes s.cfg) s.fb) (ps : List (Pixel × Colour)) :
    Memory.below (fbBytes s.cfg) (s.plotAll ps).fb := by
  induction ps generalizing s with
  | nil => exact h
  | cons p ps ih =>
    rw [show s.plotAll (p :: ps) = (s.plotAll [p]).plotAll ps from plotAll_append s [p] ps]
    refine ih (s := s.plotAll [p]) ?_
    simp only [plotAll_fb, List.foldl_cons, List.foldl_nil, plotFb, plotAll_cfg]
    split
    · exact h
    · next _ i b hm => exact update_below h (mapPixel_lt hm).1 _ _

/-- SrcMem after the outside wrote a byte of it. -/
theorem srcByte_writeSource (s : State) (a : Word) (b : Byte) (a' : Nat) :
    (s.writeSource a b).srcByte a' = if a' = a.toNat then b else s.srcByte a' := by
  unfold State.srcByte
  by_cases h : a' = a.toNat
  · simp [h]
  · simp [h, lookup_update_ne _ h]

end Sys2Proof.Machine
end

