-- ==== Sys2Proof/Laws/Exec.lean ====
section
/-!
SUPPORT. Everything a command can do to the state, said once.
-/
namespace Sys2Proof.Machine

/-- A command that answers a next state did one of these: CLEAR's write, a change of the colours, a write of RESULT, or
`Plot` calls. -/
theorem exec_cases {i : Instr} {s t : State} (h : exec i s = .next t) :
    (i = .clear ∧ t = s.setFb (zeros (fbBytes s.cfg))) ∨
    (∃ fg, i = .setfg fg ∧ t = s.setColours fg none) ∨
    (∃ fg bg, i = .setfgbg fg bg ∧ t = s.setColours fg (some bg)) ∨
    (∃ x y, i = .getpixel x y ∧ t = s.setResult (resultWord (s.pixelRead x y))) ∨
    (i ≠ .clear ∧ ∃ ps, t = s.plotAll ps) := by
  cases i <;> cases h
  case clear => exact .inl ⟨rfl, rfl⟩
  case setfg fg => exact .inr (.inl ⟨fg, rfl, rfl⟩)
  case setfgbg fg bg => exact .inr (.inr (.inl ⟨fg, bg, rfl, rfl⟩))
  case getpixel x y => exact .inr (.inr (.inr (.inl ⟨x, y, rfl, rfl⟩)))
  all_goals exact .inr (.inr (.inr (.inr ⟨nofun, _, rfl⟩)))

/-- A command changes no field but FB, FG, BG and RESULT (R91). -/
theorem exec_frame {i : Instr} {s t : State} (h : exec i s = .next t) :
    t = { s with fb := t.fb, fg := t.fg, bg := t.bg, result := t.result } := by
  rcases exec_cases h with ⟨_, rfl⟩ | ⟨_, _, rfl⟩ | ⟨_, _, _, rfl⟩ | ⟨_, _, _, rfl⟩ | ⟨_, _, rfl⟩ <;> rfl

/-- A command keeps the framebuffer's canonical form, within the framebuffer. -/
theorem exec_fb_wf {i : Instr} {s t : State} (h : exec i s = .next t) (hw : Memory.wf s.fb)
    (hb : Memory.below (fbBytes s.cfg) s.fb) : Memory.wf t.fb ∧ Memory.below (fbBytes s.cfg) t.fb := by
  rcases exec_cases h with ⟨_, rfl⟩ | ⟨_, _, rfl⟩ | ⟨_, _, _, rfl⟩ | ⟨_, _, _, rfl⟩ | ⟨_, ps, rfl⟩
  · exact ⟨zeros_wf _, zeros_below _⟩
  · exact ⟨hw, hb⟩
  · exact ⟨hw, hb⟩
  · exact ⟨hw, hb⟩
  · exact ⟨plotAll_wf hw ps, plotAll_below hb ps⟩

end Sys2Proof.Machine
end

