-- ==== Sys2Proof/Laws/Packets.lean ====
section
/-!
SUPPORT. Everything the packet decoder, the host's turn and a step can do, each said once.
-/
namespace Sys2Proof.Machine

/-- `OnCmdWord`: discarded, an error by name, or accepted (R90). -/
theorem onCmdWord_cases (w : Word) (s : State) :
    (s.phase = .halted ∧ onCmdWord w s = s) ∨
    (s.phase ≠ .halted ∧ s.pkt = [] ∧ ∃ e, headerOp w = .error e ∧ onCmdWord w s = cmdError e w s) ∨
    (s.phase ≠ .halted ∧ s.pkt = [] ∧ ∃ op, headerOp w = .ok op ∧ onCmdWord w s = acceptWord (opKinds op) [w] s) ∨
    (s.phase ≠ .halted ∧ ∃ h ws k, s.pkt = h :: ws ∧ (packetKinds h)[ws.length]? = some k ∧ operandOk k w = false ∧
      onCmdWord w s = cmdError .reservedOperand w s) ∨
    (s.phase ≠ .halted ∧ ∃ h ws, s.pkt = h :: ws ∧ (∀ k, (packetKinds h)[ws.length]? = some k → operandOk k w = true) ∧
      onCmdWord w s = acceptWord (packetKinds h) (h :: ws ++ [w]) s) := by
  by_cases hh : s.phase = .halted
  · exact .inl ⟨hh, by simp [onCmdWord, hh]⟩
  · right
    cases hp : s.pkt with
    | nil =>
      cases ho : headerOp w with
      | error e => exact .inl ⟨hh, rfl, e, rfl, by simp [onCmdWord, hh, hp, ho]⟩
      | ok op => exact .inr (.inl ⟨hh, rfl, op, rfl, by simp [onCmdWord, hh, hp, ho]⟩)
    | cons h ws =>
      right; right
      cases hk : (packetKinds h)[ws.length]? with
      | none => exact .inr ⟨hh, h, ws, rfl, by simp [hk], by simp [onCmdWord, hh, hp, hk]⟩
      | some k =>
        cases hok : operandOk k w with
        | false => exact .inl ⟨hh, h, ws, k, rfl, hk, hok, by simp [onCmdWord, hh, hp, hk, hok]⟩
        | true =>
          refine .inr ⟨hh, h, ws, rfl, ?_, by simp [onCmdWord, hh, hp, hk, hok]⟩
          intro k' hk'
          rw [hk] at hk'
          cases hk'
          exact hok

/-- The host's turn: waits, has nothing to do, reads, is held, has a write ignored, or gives a word to the decoder. -/
theorem hostTurn_cases (s : State) :
    (hostTurn s = s ∧ ((∃ w, s.held = some w ∧ s.phase = .executing) ∨ s.held = none ∧ s.host = [])) ∨
    (∃ w, s.held = some w ∧ s.phase ≠ .executing ∧ hostTurn s = onCmdWord w { s with held := none }) ∨
    (∃ n rest, s.held = none ∧ s.host = .read n :: rest ∧ hostTurn s = State.hostRead { s with host := rest } n) ∨
    (∃ w rest, s.held = none ∧ s.host = .write 0 w :: rest ∧ s.phase = .executing ∧
      hostTurn s = { s with host := rest, held := some w }) ∨
    (∃ w rest, s.held = none ∧ s.host = .write 0 w :: rest ∧ s.phase ≠ .executing ∧
      hostTurn s = onCmdWord w { s with host := rest }) ∨
    (∃ n w rest, s.held = none ∧ s.host = .write n w :: rest ∧ n ≠ 0 ∧ hostTurn s = { s with host := rest }) := by
  cases hheld : s.held with
  | some w =>
    by_cases hp : s.phase = .executing
    · exact .inl ⟨by simp [hostTurn, hheld, hp], .inl ⟨w, rfl, hp⟩⟩
    · exact .inr (.inl ⟨w, rfl, hp, by simp [hostTurn, hheld, hp]⟩)
  | none =>
    cases hh : s.host with
    | nil => exact .inl ⟨by simp [hostTurn, hheld, hh], .inr ⟨rfl, rfl⟩⟩
    | cons a rest =>
      right; right
      cases a with
      | read n => exact .inl ⟨n, rest, rfl, rfl, by simp [hostTurn, hheld, hh]⟩
      | write n w =>
        right
        by_cases hn : n = 0
        · subst hn
          by_cases hp : s.phase = .executing
          · exact .inl ⟨w, rest, rfl, rfl, hp, by simp [hostTurn, hheld, hh, hostWrite, hp]⟩
          · exact .inr (.inl ⟨w, rest, rfl, rfl, hp, by simp [hostTurn, hheld, hh, hostWrite, hp]⟩)
        · exact .inr (.inr ⟨n, w, rest, rfl, rfl, hn, by simp only [hostTurn, hheld, hh, hostWrite, if_neg hn]⟩)

/-- The state after the turn is used up differs in `turns` only. -/
theorem nextTurn_state (s : State) : (nextTurn s).2 = { s with turns := s.turns.tail } := by
  cases h : s.turns with
  | nil =>
    have hs : s = { s with turns := [] } := by rw [← h]
    have hn : (nextTurn s).2 = s := by by_cases hp : s.phase = .executing <;> simp [nextTurn, h, hp]
    rw [hn]
    exact hs
  | cons t ts => simp [nextTurn, h]

/-- A command that runs to its finish event: the packet decodes, the command answers, the engine is IDLE (R91). -/
theorem runCommand_next {s t : State} (h : runCommand s = .next t) :
    ∃ i u, fetchCommand s = some i ∧ exec i s = .next u ∧ t = finishCommand u := by
  unfold runCommand at h
  split at h
  · cases h
  · next i hf =>
    split at h
    · next u hu => cases h; exact ⟨i, u, hf, hu, rfl⟩
    · cases h
    · cases h

/-- A step that answers a next state, agent by agent. -/
theorem step_cases {s t : State} (h : step s = .next t) :
    ((nextTurn s).1 = .engine ∧ s.phase = .executing ∧ runCommand (nextTurn s).2 = .next t) ∨
    ((nextTurn s).1 = .engine ∧ s.phase ≠ .executing ∧ t = (nextTurn s).2) ∨
    ((nextTurn s).1 = .host ∧ t = hostTurn (nextTurn s).2) ∨
    (∃ n, (nextTurn s).1 = .observer n ∧ t = (nextTurn s).2.hostRead n) ∨
    (∃ i, (nextTurn s).1 = .transport i ∧ t = (nextTurn s).2.transportRead i) ∨
    ((nextTurn s).1 = .reset ∧ t = hardReset (nextTurn s).2) ∨
    (∃ a b, (nextTurn s).1 = .source a b ∧ t = (nextTurn s).2.writeSource a b) := by
  have hphase : (nextTurn s).2.phase = s.phase := by rw [nextTurn_state]
  unfold step at h
  cases ht : (nextTurn s).1 with
  | engine =>
    rw [ht] at h
    by_cases hp : s.phase = .executing
    · refine .inl ⟨rfl, hp, ?_⟩
      simpa [takeTurn, hphase, hp] using h
    · refine .inr (.inl ⟨rfl, hp, ?_⟩)
      simpa [takeTurn, hphase, hp, eq_comm] using h
  | host => rw [ht] at h; cases h; exact .inr (.inr (.inl ⟨rfl, rfl⟩))
  | observer n => rw [ht] at h; cases h; exact .inr (.inr (.inr (.inl ⟨n, rfl, rfl⟩)))
  | transport i => rw [ht] at h; cases h; exact .inr (.inr (.inr (.inr (.inl ⟨i, rfl, rfl⟩))))
  | reset => rw [ht] at h; cases h; exact .inr (.inr (.inr (.inr (.inr (.inl ⟨rfl, rfl⟩)))))
  | source a b => rw [ht] at h; cases h; exact .inr (.inr (.inr (.inr (.inr (.inr ⟨a, b, rfl, rfl⟩)))))

end Sys2Proof.Machine
end

