-- ==== Sys2Proof/Laws/PerInstr.lean ====
section
/-!
SUPPORT. Statements made instruction by instruction: the header of every command passes the header check as that
command's, and as many operand words follow as the opcode map says, each legal for its place (R81, R86 to R88).
-/
namespace Sys2Proof.Laws.HeaderAccepted

open Sys2Proof.Machine

/-- The packet of `i` has `i`'s header and as many legal operand words as its opcode asks for. -/
def Statement (i : Instr) : Prop :=
  headerOp (encodeHeader i) = .ok i.op ∧ (encodeOperands i).length = opK i.op ∧
    ((opKinds i.op).zip (encodeOperands i)).all (fun p => operandOk p.1 p.2) = true

theorem clear : Statement .clear := ⟨headerOp_opMatch .clear, rfl, rfl⟩

theorem setfg (fg : Colour) : Statement (.setfg fg) := ⟨headerOp_setfg fg, rfl, rfl⟩

theorem setfgbg (fg bg : Colour) : Statement (.setfgbg fg bg) := ⟨headerOp_setfgbg fg bg, rfl, rfl⟩

theorem setpixel (x y : Int) : Statement (.setpixel x y) := ⟨headerOp_opMatch .setpixel, rfl, rfl⟩

theorem getpixel (x y : Int) : Statement (.getpixel x y) := ⟨headerOp_opMatch .getpixel, rfl, rfl⟩

theorem line (x0 y0 x1 y1 : Int) : Statement (.line x0 y0 x1 y1) := ⟨headerOp_opMatch .line, rfl, rfl⟩

theorem rect (x y w h : Int) : Statement (.rect x y w h) := ⟨headerOp_opMatch .rect, rfl, rfl⟩

theorem fillrect (x y w h : Int) : Statement (.fillrect x y w h) := ⟨headerOp_opMatch .fillrect, rfl, rfl⟩

theorem roundrect (x y w h r : Int) : Statement (.roundrect x y w h r) := by
  refine ⟨headerOp_opMatch .roundrect, rfl, ?_⟩
  simp [opKinds, Instr.op, encodeOperands, hiHalf_packRadius, operandOk]

theorem fillroundrect (x y w h r : Int) : Statement (.fillroundrect x y w h r) := by
  refine ⟨headerOp_opMatch .fillroundrect, rfl, ?_⟩
  simp [opKinds, Instr.op, encodeOperands, hiHalf_packRadius, operandOk]

theorem circle (x0 y0 r : Int) : Statement (.circle x0 y0 r) := by
  refine ⟨headerOp_opMatch .circle, rfl, ?_⟩
  simp [opKinds, Instr.op, encodeOperands, hiHalf_packRadius, operandOk]

theorem fillcircle (x0 y0 r : Int) : Statement (.fillcircle x0 y0 r) := by
  refine ⟨headerOp_opMatch .fillcircle, rfl, ?_⟩
  simp [opKinds, Instr.op, encodeOperands, hiHalf_packRadius, operandOk]

theorem triangle (x0 y0 x1 y1 x2 y2 : Int) : Statement (.triangle x0 y0 x1 y1 x2 y2) := ⟨headerOp_opMatch .triangle, rfl, rfl⟩

theorem filltriangle (x0 y0 x1 y1 x2 y2 : Int) : Statement (.filltriangle x0 y0 x1 y1 x2 y2) := ⟨headerOp_opMatch .filltriangle, rfl, rfl⟩

theorem blit (x y w h : Int) (addr : Nat) : Statement (.blit x y w h addr) := ⟨headerOp_opMatch .blit, rfl, rfl⟩

theorem blitx (x y w h : Int) (addr : Nat) (rot : BitmapRot) (flip : Flip) : Statement (.blitx x y w h addr rot flip) := ⟨headerOp_blitx rot flip, rfl, rfl⟩

end Sys2Proof.Laws.HeaderAccepted
end

