-- ==== Sys2Proof/Tests/Slice0.lean ====
section
/-!
SUPPORT. The model's own tests. Expected results come from 95_test_vectors.md and the examples of the rules; the vectors'
pixel sets are placed in a 24 by 16 display so that the tests stay small. After them, for every statement with hypotheses,
a concrete state and operands that meet them.
-/
namespace Sys2Proof.Tests

open Sys2Proof Sys2Proof.Machine

/-! ### Helpers -/

/-- The state an outcome goes on with. -/
def after (o : Host.Outcome State Fault Refusal) : State :=
  match o with
  | .next t => t
  | .fault _ => State.reset
  | .refused _ => State.reset

/-- Whether an outcome is a next state. -/
def goesOn (o : Host.Outcome State Fault Refusal) : Bool :=
  match o with
  | .next _ => true
  | .fault _ => false
  | .refused _ => false

theorem next_of_goesOn {o : Host.Outcome State Fault Refusal} (h : goesOn o = true) : o = .next (after o) := by
  cases o <;> simp_all [goesOn, after]

/-- The nonzero listed bytes of the framebuffer an outcome leaves. -/
def shown (o : Host.Outcome State Fault Refusal) : Memory :=
  match o with
  | .next t => t.fb.filter fun c => c.2 != 0
  | .fault _ => []
  | .refused _ => []

/-- A 24 by 16 display. -/
def small : Config := { nw := ⟨23⟩, nh := ⟨15⟩, rot := .none, readMap := .rotationAware }

/-- A 10 by 3 logical display whose GETPIXEL reads the native 3 by 10 pixels. -/
def skewed : Config := { nw := ⟨2⟩, nh := ⟨9⟩, rot := .ccw90, readMap := .nativeAlways }

/-- The start state of the vectors: the framebuffer cleared, colours as reset leaves them. -/
def cleared : State := { State.reset with cfg := small, fb := zeros 48 }

/-- The bitmap `L` of the vectors at 0x100, and the source bytes of B7 at 0x200. -/
def withBitmaps : State :=
  { cleared with
    srcMem := [(0x100, 0x03), (0x101, 0x02), (0x102, 0x00), (0x200, 0xFF), (0x201, 0x01), (0x202, 0x02), (0x203, 0x03)] }

/-! ### WellFormed refuses every kind of ill-formed operand -/

theorem test_coord_low : coordOk (-32769) = false ∧ coordOk (-32768) = true := by decide
theorem test_coord_high : coordOk 32768 = false ∧ coordOk 32767 = true := by decide
theorem test_illformed_setpixel : WellFormed (.setpixel 32768 0) = false ∧ WellFormed (.setpixel 0 32768) = false := by
  decide
theorem test_illformed_getpixel : WellFormed (.getpixel (-32769) 0) = false ∧ WellFormed (.getpixel 0 32768) = false := by
  decide
theorem test_illformed_line : WellFormed (.line 32768 0 0 0) = false ∧ WellFormed (.line 0 32768 0 0) = false ∧
    WellFormed (.line 0 0 32768 0) = false ∧ WellFormed (.line 0 0 0 32768) = false := by decide
theorem test_illformed_rect : WellFormed (.rect 32768 0 1 1) = false ∧ WellFormed (.rect 0 32768 1 1) = false ∧
    WellFormed (.rect 0 0 32768 1) = false ∧ WellFormed (.rect 0 0 1 32768) = false := by decide
theorem test_illformed_fillrect : WellFormed (.fillrect 32768 0 1 1) = false ∧
    WellFormed (.fillrect 0 32768 1 1) = false ∧ WellFormed (.fillrect 0 0 (-32769) 1) = false ∧
    WellFormed (.fillrect 0 0 1 (-32769)) = false := by decide
theorem test_illformed_roundrect : WellFormed (.roundrect 32768 0 1 1 0) = false ∧
    WellFormed (.roundrect 0 32768 1 1 0) = false ∧ WellFormed (.roundrect 0 0 32768 1 0) = false ∧
    WellFormed (.roundrect 0 0 1 32768 0) = false ∧ WellFormed (.roundrect 0 0 1 1 32768) = false := by decide
theorem test_illformed_fillroundrect : WellFormed (.fillroundrect 32768 0 1 1 0) = false ∧
    WellFormed (.fillroundrect 0 32768 1 1 0) = false ∧ WellFormed (.fillroundrect 0 0 32768 1 0) = false ∧
    WellFormed (.fillroundrect 0 0 1 32768 0) = false ∧ WellFormed (.fillroundrect 0 0 1 1 (-32769)) = false := by decide
theorem test_illformed_circle : WellFormed (.circle 32768 0 0) = false ∧ WellFormed (.circle 0 32768 0) = false ∧
    WellFormed (.circle 0 0 32768) = false := by decide
theorem test_illformed_fillcircle : WellFormed (.fillcircle 32768 0 0) = false ∧
    WellFormed (.fillcircle 0 32768 0) = false ∧ WellFormed (.fillcircle 0 0 (-32769)) = false := by decide
theorem test_illformed_triangle : WellFormed (.triangle 32768 0 0 0 0 0) = false ∧
    WellFormed (.triangle 0 32768 0 0 0 0) = false ∧ WellFormed (.triangle 0 0 32768 0 0 0) = false ∧
    WellFormed (.triangle 0 0 0 32768 0 0) = false ∧ WellFormed (.triangle 0 0 0 0 32768 0) = false ∧
    WellFormed (.triangle 0 0 0 0 0 32768) = false := by decide
theorem test_illformed_filltriangle : WellFormed (.filltriangle 32768 0 0 0 0 0) = false ∧
    WellFormed (.filltriangle 0 32768 0 0 0 0) = false ∧ WellFormed (.filltriangle 0 0 32768 0 0 0) = false ∧
    WellFormed (.filltriangle 0 0 0 32768 0 0) = false ∧ WellFormed (.filltriangle 0 0 0 0 32768 0) = false ∧
    WellFormed (.filltriangle 0 0 0 0 0 32768) = false := by decide
theorem test_illformed_blit : WellFormed (.blit 32768 0 1 1 0) = false ∧ WellFormed (.blit 0 32768 1 1 0) = false ∧
    WellFormed (.blit 0 0 32768 1 0) = false ∧ WellFormed (.blit 0 0 1 32768 0) = false ∧
    WellFormed (.blit 0 0 1 1 0x100000000) = false ∧ WellFormed (.blit 0 0 1 1 0xFFFFFFFF) = true := by decide
theorem test_illformed_blitx : WellFormed (.blitx 32768 0 1 1 0 .cw .flipH) = false ∧
    WellFormed (.blitx 0 32768 1 1 0 .cw .flipH) = false ∧ WellFormed (.blitx 0 0 32768 1 0 .cw .flipH) = false ∧
    WellFormed (.blitx 0 0 1 32768 0 .cw .flipH) = false ∧
    WellFormed (.blitx 0 0 1 1 0x100000000 .cw .flipH) = false := by decide

/-! ### Words written out from the encodings of the spec -/

/-- R94. -/
theorem test_decode_clear : decode [0x00000001] = .ok (.clear, []) := by decide
/-- R94: opcode 0x02, bit 8 is FG. -/
theorem test_decode_setfg : decode [0x00000102] = .ok (.setfg true, []) := by decide
/-- R94: `SETFGBG 0, 1`: bit 8 is FG, bit 9 is BG. -/
theorem test_decode_setfgbg : decode [0x00000203] = .ok (.setfgbg false true, []) := by decide
/-- R94. -/
theorem test_decode_setpixel : decode [0x00000010, 0x00030005] = .ok (.setpixel 5 3, []) := by decide
/-- R86, R82: a negative y in the upper half. -/
theorem test_decode_getpixel : decode [0x00000011, 0xFFFF0053] = .ok (.getpixel 83 (-1), []) := by decide
/-- R94. -/
theorem test_decode_line : decode [0x00000020, 0x00000000, 0x0000000A] = .ok (.line 0 0 10 0, []) := by decide
/-- N16 of 95_test_vectors.md. -/
theorem test_decode_rect : decode [0x00000030, 0x00000000, 0xFFFFFFFF] = .ok (.rect 0 0 (-1) (-1), []) := by decide
/-- R94. -/
theorem test_decode_fillrect : decode [0x00000031, 0x00020002, 0x00030004] = .ok (.fillrect 2 2 4 3, []) := by decide
/-- R86, R82: Q3's operands. -/
theorem test_decode_roundrect :
    decode [0x00000032, 0x00010001, 0x00060008, 0x0000000A] = .ok (.roundrect 1 1 8 6 10, []) := by decide
/-- R86, R82: a radius field of 0xFFFD is -3 (Q12's operands). -/
theorem test_decode_fillroundrect :
    decode [0x00000033, 0x00000000, 0x00050005, 0x0000FFFD] = .ok (.fillroundrect 0 0 5 5 (-3), []) := by decide
/-- R94. -/
theorem test_decode_circle : decode [0x00000040, 0x00180028, 0x0000FFFF] = .ok (.circle 40 24 (-1), []) := by decide
/-- P5 of 95_test_vectors.md. -/
theorem test_decode_fillcircle : decode [0x00000041, 0x00040004, 0x00000002] = .ok (.fillcircle 4 4 2, []) := by decide
/-- R86, R82. -/
theorem test_decode_triangle :
    decode [0x00000050, 0x00010001, 0x00030008, 0x00070003] = .ok (.triangle 1 1 8 3 3 7, []) := by decide
/-- P5 of 95_test_vectors.md. -/
theorem test_decode_filltriangle :
    decode [0x00000051, 0x002D0050, 0x002D005A, 0x00320055] = .ok (.filltriangle 80 45 90 45 85 50, []) := by decide
/-- R86, R82: the address is the whole word (B8's operands). -/
theorem test_decode_blit :
    decode [0x00000060, 0x00000000, 0x00010002, 0xFFFFFFFF] = .ok (.blit 0 0 2 1 0xFFFFFFFF, []) := by decide
/-- R94: ROT is bits 9:8, FLIP is bits 11:10. -/
theorem test_decode_blitx :
    decode [0x00000761, 0x0014000A, 0x00080008, 0x00000100] = .ok (.blitx 10 20 8 8 0x100 .cw .flipH, []) := by decide
/-- N13: the second word is an operand although it looks like CLEAR. -/
theorem test_decode_operand_like_header : decode [0x00000010, 0x00000001] = .ok (.setpixel 1 0, []) := by decide
/-- N2, N3, N5: illegal opcodes, tested before reserved bits. -/
theorem test_decode_illegal : decode [0x00000000] = .error (.cmd .illegalOpcode) ∧
    decode [0x000000FF] = .error (.cmd .illegalOpcode) ∧ decode [0x00000104] = .error (.cmd .illegalOpcode) := by decide
/-- N4, N6, N8: reserved header bits. -/
theorem test_decode_reserved_header : decode [0x00000101] = .error (.cmd .reservedHeader) ∧
    decode [0x00000302] = .error (.cmd .reservedHeader) ∧ decode [0x00001061] = .error (.cmd .reservedHeader) := by decide
/-- N10, N15: reserved operand bits. -/
theorem test_decode_reserved_operand :
    decode [0x00000040, 0x00050005, 0x00010002] = .error (.cmd .reservedOperand) ∧
    decode [0x00000032, 0, 0x00040004, 0x80000002] = .error (.cmd .reservedOperand) := by decide
/-- N12: a header alone is no packet. -/
theorem test_decode_incomplete : decode [0x00000010] = .error .incomplete := by decide
/-- R62: the bytes of `SETPIXEL 5, 3` on a byte-wide bus. -/
theorem test_decode_bytes :
    decodeBytes [0x10, 0x00, 0x00, 0x00, 0x05, 0x00, 0x03, 0x00] = .ok (.setpixel 5 3, []) := by decide
/-- R94: the packet of `SETPIXEL 5, 3` as one number. -/
theorem test_table_word : decodeTableWord 64 0x0003000500000010 = some (.setpixel 5 3) ∧
    decodeTableWord 32 0x00000010 = some (.setpixel 0 0) ∧ decodeTableWord 32 0x00000004 = none := by decide

/-! ### Commands -/

/-- R110: every byte is 0, padding or not. -/
theorem test_clear : (after (exec .clear { cleared with fb := [(3, 0xFF), (47, 0x80)] })).fb = zeros 48 := by decide
/-- C7 of 95_test_vectors.md: SETFG makes BG NONE. -/
theorem test_setfg : (after (exec (.setfg true) { cleared with bg := some true })).readReg 6 = 0x00000001 := by decide
/-- C2. -/
theorem test_setfg_zero : (after (exec (.setfg false) cleared)).readReg 6 = 0x00000000 := by decide
/-- C4. -/
theorem test_setfgbg : (after (exec (.setfgbg false true) cleared)).readReg 6 = 0x00000006 := by decide
/-- C3. -/
theorem test_setfgbg_one_zero : (after (exec (.setfgbg true false) cleared)).readReg 6 = 0x00000003 := by decide
/-- V3: bit 7 of one row group, bit 0 of the next. -/
theorem test_setpixel : shown (exec (.setpixel 5 8) (after (exec (.setpixel 5 7) cleared))) =
    [(5, 0x80), (29, 0x01)] := by decide
/-- V6: out of bounds. -/
theorem test_setpixel_out : shown (exec (.setpixel (-32768) 32767) cleared) = [] := by decide
/-- V5. -/
theorem test_getpixel : (after (exec (.getpixel 0 0) { cleared with fb := [(0, 0x01)] })).result = 1 := by decide
/-- The MapRead grid of section 2.1: GETPIXEL 1, 0 reads byte 1 bit 0 while SETPIXEL 1, 0 writes byte 2 bit 1. -/
theorem test_getpixel_native :
    (after (exec (.getpixel 1 0) { cleared with cfg := skewed, fb := [(1, 0x01), (2, 0x00)] })).result = 1 ∧
    mapPixel skewed 1 0 = some (2, 1) := by decide

/-- D15 of 95_test_vectors.md. -/
theorem test_line_slope : shown (exec (.line 10 0 0 3) cleared) =
    [(0, 0x08), (1, 0x08), (2, 0x04), (3, 0x04), (4, 0x04), (5, 0x04), (6, 0x02), (7, 0x02), (8, 0x02), (9, 0x01), (10, 0x01)] := by decide

/-- D3 of 95_test_vectors.md. -/
theorem test_line_steep_clipped : shown (exec (.line 0 0 2 5) cleared) =
    [(0, 0x03), (1, 0x0C), (2, 0x30)] := by decide

/-- D16 of 95_test_vectors.md. -/
theorem test_rect_border : shown (exec (.rect 1 1 4 3) cleared) =
    [(1, 0x0E), (2, 0x0A), (3, 0x0A), (4, 0x0E)] := by decide

/-- D22 of 95_test_vectors.md. -/
theorem test_rect_clipped : shown (exec (.rect (-1) (-1) 3 3) cleared) =
    [(0, 0x02), (1, 0x03)] := by decide

/-- D23 of 95_test_vectors.md. -/
theorem test_fillrect : shown (exec (.fillrect 2 2 4 3) cleared) =
    [(2, 0x1C), (3, 0x1C), (4, 0x1C), (5, 0x1C)] := by decide

/-- D24 of 95_test_vectors.md. -/
theorem test_fillrect_clipped : shown (exec (.fillrect (-1) (-1) 3 2) cleared) =
    [(0, 0x01), (1, 0x01)] := by decide

/-- Q3 of 95_test_vectors.md. -/
theorem test_roundrect : shown (exec (.roundrect 1 1 8 6 10) cleared) =
    [(1, 0x18), (2, 0x24), (3, 0x42), (4, 0x42), (5, 0x42), (6, 0x42), (7, 0x24), (8, 0x18)] := by decide

/-- Q7 of 95_test_vectors.md. -/
theorem test_roundrect_crossed : shown (exec (.roundrect 0 0 4 6 2) cleared) =
    [(0, 0x1E), (1, 0x21), (2, 0x21), (3, 0x1E)] := by decide

/-- Q4 of 95_test_vectors.md. -/
theorem test_fillroundrect : shown (exec (.fillroundrect 1 1 8 6 10) cleared) =
    [(1, 0x18), (2, 0x3C), (3, 0x7E), (4, 0x7E), (5, 0x7E), (6, 0x7E), (7, 0x3C), (8, 0x18)] := by decide

/-- Q10 of 95_test_vectors.md. -/
theorem test_fillroundrect_crossed : shown (exec (.fillroundrect 0 0 2 3 1) cleared) =
    [(0, 0x07), (1, 0x07)] := by decide

/-- K6 of 95_test_vectors.md. -/
theorem test_circle : shown (exec (.circle 10 10 4) cleared) =
    [(7, 0x80), (8, 0x80), (9, 0x40), (10, 0x40), (11, 0x40), (12, 0x80), (13, 0x80), (30, 0x0E), (31, 0x31), (32, 0x20), (33, 0x40), (34, 0x40), (35, 0x40), (36, 0x20), (37, 0x31), (38, 0x0E)] := by decide

/-- K1 of 95_test_vectors.md. -/
theorem test_circle_negative : shown (exec (.circle 10 10 (-1)) cleared) =
    [] := by decide

/-- K14 of 95_test_vectors.md. -/
theorem test_fillcircle : shown (exec (.fillcircle 10 10 4) cleared) =
    [(7, 0x80), (8, 0x80), (9, 0xC0), (10, 0xC0), (11, 0xC0), (12, 0x80), (13, 0x80), (30, 0x0E), (31, 0x3F), (32, 0x3F), (33, 0x7F), (34, 0x7F), (35, 0x7F), (36, 0x3F), (37, 0x3F), (38, 0x0E)] := by decide

/-- K18 of 95_test_vectors.md. -/
theorem test_fillcircle_clipped : shown (exec (.fillcircle 0 0 2) cleared) =
    [(0, 0x07), (1, 0x07), (2, 0x03)] := by decide

/-- T5 of 95_test_vectors.md. -/
theorem test_triangle : shown (exec (.triangle 1 1 8 3 3 7) cleared) =
    [(1, 0x06), (2, 0x3A), (3, 0xC4), (4, 0x44), (5, 0x24), (6, 0x24), (7, 0x18), (8, 0x08)] := by decide

/-- T4 of 95_test_vectors.md. -/
theorem test_filltriangle : shown (exec (.filltriangle 1 1 8 3 3 7) cleared) =
    [(1, 0x0E), (2, 0x7C), (3, 0xFC), (4, 0x7C), (5, 0x78), (6, 0x38), (7, 0x18), (8, 0x08)] := by decide

/-- T14 of 95_test_vectors.md. -/
theorem test_filltriangle_clipped : shown (exec (.filltriangle (-2) (-2) 3 1 (-2) 4) cleared) =
    [(0, 0x0F), (1, 0x07), (2, 0x06), (3, 0x02)] := by decide
/-- B7: the source layout is the framebuffer's. -/
theorem test_blit_layout : shown (exec (.blit 0 0 2 10 0x200) withBitmaps) =
    [(0, 0xFF), (1, 0x01), (24, 0x02), (25, 0x03)] := by decide
/-- B8: the address wraps. -/
theorem test_blit_wraps :
    shown (exec (.blit 0 0 2 1 0xFFFFFFFF) { cleared with srcMem := [(0, 0x01), (0xFFFFFFFF, 0x01)] }) =
    [(0, 0x01), (1, 0x01)] := by decide
/-- X13: rotated clockwise, transparent. -/
theorem test_blitx_cw : shown (exec (.blitx 10 10 3 2 0x100 .cw .noflip) withBitmaps) = [(34, 0x0C), (35, 0x04)] := by
  decide
/-- X6: the flip is in the rotated frame (`11: 10`, `12: 10 11`). -/
theorem test_blitx_flip : shown (exec (.blitx 10 10 3 2 0x100 .ccw .flipH) withBitmaps) = [(34, 0x18), (35, 0x10)] := by
  decide

/-! ### Steps -/

/-- R91: the placed packet runs at the next step and finishes. -/
theorem test_step_runs : shown (step (cleared.withFetchWord 64 0x000A000500000010)) = [(29, 0x04)] ∧
    (after (step (cleared.withFetchWord 64 0x000A000500000010))).phase = .idle := by decide
/-- N10: CIRCLE with a reserved radius word halts at the third word. -/
theorem test_step_halts :
    (after (step { cleared with
      pkt := [0x40, 0x00050005], phase := .receiving, status := statusReceiving, host := [.write 0 0x00010002] })).readReg 1
      = 0x00000034 := by decide
/-- N12: a header alone sets PEND. -/
theorem test_step_pend : (after (step { cleared with host := [.write 0 0x00000010] })).readReg 1 = 0x00000002 := by decide
/-- R58: the read port gives 0 beyond the framebuffer. -/
theorem test_step_port :
    (after (step { cleared with fb := [(47, 0x80)], turns := [.transport 47] })).portAnswer = some 0x80 ∧
    (after (step { cleared with fb := [(47, 0x80)], turns := [.transport 48] })).portAnswer = some 0x00 := by decide
/-- R231: another host reads STATUS while a command executes and a write is held. -/
theorem test_observer :
    (after (step { placePacket [0x01] cleared with held := some 1, turns := [.observer 1] })).regAnswer =
      some 0x00000001 := by decide
/-- R61: a source turn marks SrcMem as moved. -/
theorem test_source_turn :
    (after (step { withBitmaps with turns := [.source 0x100 0x03] })).srcMoved = true := by decide
/-- R56, section 2.1: a corner of the 3 by 10 display in each 90 degree mode. -/
theorem test_map : mapPixel { skewed with rot := .ccw90 } 9 2 = some (3, 1) ∧
    mapPixel { skewed with rot := .cw90 } 0 0 = some (3, 1) := by decide

/-! ### States for the witnesses -/

/-- `SETPIXEL 5, 10` is executing. -/
def busy : State := placePacket [0x10, 0x000A0005] cleared

/-- The same with a CMD write held. -/
def busyHeld : State := { busy with held := some 0x00000001 }

/-- A SETPIXEL header is received and its operand comes next. -/
def receiving : State :=
  { cleared with pkt := [0x10], phase := .receiving, status := statusReceiving, host := [.write 0 0x000A0005] }

/-- The illegal opcode 0xFF halted the engine, and the host goes on writing. -/
def halted : State :=
  { cleared with
    phase := .halted, status := statusHalted .illegalOpcode, errWord := 0xFF, host := [.write 0 0x00000001] }

theorem test_inv_cleared : Inv cleared :=
  { fbWf := by decide, fbBelow := by decide, srcWf := by decide, srcBelow := by decide, resultBit := by decide,
    phaseOk := by decide, errWordOk := by decide, heldOk := by decide, drawsOk := by decide }

theorem test_inv_busy : Inv busy :=
  { fbWf := by decide, fbBelow := by decide, srcWf := by decide, srcBelow := by decide, resultBit := by decide,
    phaseOk := by decide, errWordOk := by decide, heldOk := by decide, drawsOk := by decide }

theorem test_inv_busyHeld : Inv busyHeld :=
  { fbWf := by decide, fbBelow := by decide, srcWf := by decide, srcBelow := by decide, resultBit := by decide,
    phaseOk := by decide, errWordOk := by decide, heldOk := by decide, drawsOk := by decide }

theorem test_inv_receiving : Inv receiving :=
  { fbWf := by decide, fbBelow := by decide, srcWf := by decide, srcBelow := by decide, resultBit := by decide,
    phaseOk := by decide, errWordOk := by decide, heldOk := by decide, drawsOk := by decide }

theorem test_inv_halted : Inv halted :=
  { fbWf := by decide, fbBelow := by decide, srcWf := by decide, srcBelow := by decide, resultBit := by decide,
    phaseOk := by decide, errWordOk := by decide, heldOk := by decide, drawsOk := by decide }

/-- The state step gives, as a witness of a premise `step s = .next t`. -/
theorem step_next {s : State} (h : goesOn (step s) = true) : step s = .next (after (step s)) := next_of_goesOn h

/-! ### Witnesses: reset, the invariant, whole-machine rules -/

theorem test_witness_ResetTurnSetsResetValues :
    ({ busyHeld with turns := [.reset, .engine] } : State).turns = .reset :: [.engine] := rfl

theorem test_witness_StepKeepsInvariant : Inv busyHeld ∧ step busyHeld = .next (after (step busyHeld)) :=
  ⟨test_inv_busyHeld, step_next (by decide)⟩

theorem test_witness_StepAlwaysGoesOn : Inv receiving := test_inv_receiving

theorem test_witness_ConfigurationIsFixed : step busy = .next (after (step busy)) := step_next (by decide)

theorem test_witness_HaltedUntilReset :
    (halted.phase = .halted ∧ step halted = .next (after (step halted)) ∧ (nextTurn halted).1 ≠ .reset ∧
      (nextTurn halted).1 = .host ∧ halted.held = none ∧ halted.host = .write 0 1 :: []) ∧
    (let s : State := { halted with turns := [.transport 47] };
      s.phase = .halted ∧ step s = .next (after (step s)) ∧ (nextTurn s).1 = .transport 47) ∧
    (let s : State := { halted with turns := [.reset] };
      s.phase = .halted ∧ step s = .next (after (step s)) ∧ (nextTurn s).1 = .reset) :=
  ⟨⟨rfl, step_next (by decide), by decide, by decide, rfl, rfl⟩, ⟨rfl, step_next (by decide), rfl⟩,
    ⟨rfl, step_next (by decide), rfl⟩⟩

theorem test_witness_PhaseTableAndTransitions :
    (Inv cleared ∧ step cleared = .next (after (step cleared)) ∧ cleared.phase = .idle) ∧
    (Inv receiving ∧ step receiving = .next (after (step receiving)) ∧ receiving.phase = .receiving ∧
      (after (step receiving)).phase ≠ receiving.phase) ∧
    (Inv busy ∧ step busy = .next (after (step busy)) ∧ busy.phase = .executing ∧
      (after (step busy)).phase ≠ busy.phase) ∧
    (Inv halted ∧ step halted = .next (after (step halted)) ∧ halted.phase = .halted) :=
  ⟨⟨test_inv_cleared, step_next (by decide), rfl⟩, ⟨test_inv_receiving, step_next (by decide), rfl, by decide⟩,
    ⟨test_inv_busy, step_next (by decide), rfl, by decide⟩, ⟨test_inv_halted, step_next (by decide), rfl⟩⟩

theorem test_witness_ColoursKeptUntilSet :
    let s := placePacket [0x00000203] cleared;
    step s = .next (after (step s)) ∧ ((after (step s)).fg ≠ s.fg ∨ (after (step s)).bg ≠ s.bg) :=
  ⟨step_next (by decide), by decide⟩

/-- A GETPIXEL that changes RESULT, a SETPIXEL that changes a bit, and a CLEAR that changes a padding bit (24 by 15). -/
theorem test_witness_ResultAndFramebufferWriters :
    (let s := placePacket [0x11, 0] { cleared with fb := [(0, 0x01)] };
      step s = .next (after (step s)) ∧ (after (step s)).result ≠ s.result) ∧
    (step busy = .next (after (step busy)) ∧ (after (step busy)).fbBit 29 2 ≠ busy.fbBit 29 2) ∧
    (let s := placePacket [0x01] { cleared with cfg := { small with nh := ⟨14⟩ }, fb := [(24, 0x80)] };
      step s = .next (after (step s)) ∧ (after (step s)).fbBit 24 7 ≠ s.fbBit 24 7 ∧ PaddingBit s.cfg 24 7) :=
  ⟨⟨step_next (by decide), by decide⟩, ⟨step_next (by decide), by decide⟩,
    ⟨step_next (by decide), by decide, by unfold PaddingBit; decide⟩⟩

/-! ### Witnesses: encoding and the packet decoder -/

theorem test_witness_DecodeEncodeRoundTrip :
    WellFormed (.blitx (-32768) 32767 0 (-1) 0xFFFFFFFF .cw .flipHV) = true := by decide

theorem test_witness_EncodeDecodeRoundTrip :
    decode [0x00000761, 0x0014000A, 0x00080008, 0x00000100, 0x01] =
      .ok (.blitx 10 20 8 8 0x100 .cw .flipH, [0x01]) := by decide

theorem test_witness_OperandFieldsDecodeAsTabulated :
    ∃ lo hi : Word → Int, (∀ w, lo w = (w.extractLsb' 0 16).toInt) ∧ (∀ w, hi w = (w.extractLsb' 16 16).toInt) ∧
      (0xFFFF : Word).toNat < 65536 :=
  ⟨_, _, fun _ => rfl, fun _ => rfl, by decide⟩

/-- One state and word for each clause; the first two clauses exclude each other by their tests of `w`. -/
theorem test_witness_MalformedWordsHalt :
    (cleared.phase ≠ .halted ∧ cleared.pkt = [] ∧ ∀ row ∈ headerTable, (0x104 : Word) &&& 0xFF ≠ row.2.1) ∧
    (∃ row ∈ headerTable, (0x101 : Word) &&& 0xFF = row.2.1 ∧ (0x101 : Word) &&& row.2.2 ≠ row.2.1) ∧
    (let s : State := { cleared with pkt := [0x40, 0x00050005], phase := .receiving };
      s.phase ≠ .halted ∧ s.pkt = 0x40 :: [0x00050005] ∧ radiusOperand 0x40 ([(0x00050005 : Word)].length + 1) ∧
        (0x00010002 : Word) >>> 16 ≠ 0) ∧
    (∃ row ∈ headerTable, (0xF61 : Word) &&& row.2.2 = row.2.1) ∧
    (receiving.phase ≠ .halted ∧ receiving.pkt = 0x10 :: [] ∧ ¬ radiusOperand 0x10 ([] : List Word).length.succ) :=
  ⟨⟨by decide, rfl, by decide⟩, by decide, ⟨by decide, rfl, by unfold radiusOperand; decide, by decide⟩, by decide,
    ⟨by decide, rfl, by unfold radiusOperand; decide⟩⟩

theorem test_witness_WordsAssembleToPacket :
    WellFormed (.circle 40 24 (-1)) = true ∧ cleared.phase = .idle ∧ cleared.pkt = [] ∧ 0 < 1 ∧
      1 ≤ (encode (.circle 40 24 (-1))).length ∧ 3 ≤ (encode (.circle 40 24 (-1))).length := by decide

theorem test_witness_StepRunsDecodedCommand :
    (busy.phase = .executing ∧ busy.turns = [] ∧ decode busy.pkt = .ok (.setpixel 5 10, [])) ∧
    ({ busy with turns := [.engine] } : State).turns = .engine :: [] := ⟨⟨rfl, rfl, by decide⟩, rfl⟩

theorem test_witness_PacketRunsAsOneCommand :
    let s : State := { cleared with host := cmdWrites (encode (.setpixel 5 10)) ++ [.read 2] };
    WellFormed (.setpixel 5 10) = true ∧ s.phase = .idle ∧ s.pkt = [] ∧ s.held = none ∧ s.turns = [] ∧
      s.host = cmdWrites (encode (.setpixel 5 10)) ++ [.read 2] ∧
      ∃ u, exec (.setpixel 5 10)
        { s with
          host := [.read 2], pkt := encode (.setpixel 5 10), phase := .executing, srcMoved := false
          status := { busy := true, pend := false, err := false, errCode := 0 } } = .next u :=
  ⟨by decide, rfl, rfl, rfl, rfl, rfl, _, rfl⟩

/-! ### Witnesses: ports and registers -/

/-- Registers at the ends of the reserved range, another host's read while a command executes and a write is held, and the
host's own read. -/
theorem test_witness_RegisterMap :
    7 ≤ (7 : BitVec 8).toNat ∧ 7 ≤ (255 : BitVec 8).toNat ∧ (1 : BitVec 8) ≠ 0 ∧
    (nextTurn { busyHeld with turns := [.observer 1] }).1 = .observer 1 ∧
    (let s : State := { cleared with host := [.read 6] };
      (nextTurn s).1 = .host ∧ s.held = none ∧ s.host = .read 6 :: []) := by decide

theorem test_witness_StatusFields :
    (Inv halted ∧ halted.phase = .halted) ∧ (Inv busy ∧ busy.phase = .executing ∧ busy.phase ≠ .halted) :=
  ⟨⟨test_inv_halted, rfl⟩, test_inv_busy, rfl, by decide⟩

theorem test_witness_ColorRegisterFields : ({ cleared with bg := some false } : State).bg = some false ∧
    cleared.bg = none := ⟨rfl, rfl⟩

theorem test_witness_ReadPortServesFramebuffer :
    (let s : State := { cleared with turns := [.transport 47] };
      (nextTurn s).1 = .transport 47 ∧ s.phase ≠ .executing) ∧
    (let s : State := { busy with turns := [.transport 48] };
      (nextTurn s).1 = .transport 48 ∧ s.phase = .executing) :=
  ⟨⟨rfl, by decide⟩, rfl, rfl⟩

theorem test_witness_CmdWritesAreHeldWhileBusy :
    (let s : State := { busy with host := [.write 0 1] };
      s.held = none ∧ s.host = .write 0 1 :: [] ∧ s.phase = .executing) ∧
    (receiving.held = none ∧ receiving.host = .write 0 0x000A0005 :: [] ∧ receiving.phase ≠ .executing) ∧
    (busyHeld.held = some 1 ∧ busyHeld.phase = .executing) ∧
    (let s : State := { cleared with held := some 1 };
      s.held = some 1 ∧ s.phase ≠ .executing) ∧
    halted.phase = .halted :=
  ⟨⟨rfl, rfl, rfl⟩, ⟨rfl, rfl, by decide⟩, ⟨rfl, rfl⟩, ⟨rfl, by decide⟩, rfl⟩

theorem test_witness_HeldWriteCompletes :
    Inv busyHeld ∧ busyHeld.phase = .executing ∧ busyHeld.held = some 1 ∧ busyHeld.turns = [] :=
  ⟨test_inv_busyHeld, rfl, rfl, rfl⟩

/-! ### Witnesses: Coordinate Mapper, Plot, colours, pixels -/

/-- A far corner of the 3 by 10 native display, with its native column and row, in each of the four formulas; bit 2 of byte 3
is padding. -/
theorem test_witness_MapIsBijection :
    mapPixel skewed 9 2 = some (3, 1) ∧ 3 < fbBytes skewed ∧ 1 < 8 ∧ ¬ PaddingBit skewed 3 1 ∧ PaddingBit skewed 3 2 ∧
    (skewed.rot = .none ∨ skewed.rot = .rot180 ∨ skewed.rot = .ccw90) ∧
    ((0 : Int) ≤ 9 ∧ (9 : Int) < logicalW skewed ∧ (0 : Int) ≤ 2 ∧ (2 : Int) < logicalH skewed ∧
      ((0 : Nat) : Int) = logicalH skewed - 2 - 1 ∧ ((9 : Nat) : Int) = 9) ∧
    (let c : Config := { skewed with rot := .cw90 };
      (9 : Int) < logicalW c ∧ (2 : Int) < logicalH c ∧ ((2 : Nat) : Int) = 2 ∧ ((0 : Nat) : Int) = logicalW c - 9 - 1) ∧
    (let c : Config := { skewed with rot := .rot180 };
      (2 : Int) < logicalW c ∧ (9 : Int) < logicalH c ∧ ((0 : Nat) : Int) = nw c - 2 - 1 ∧
        ((0 : Nat) : Int) = nh c - 9 - 1) ∧
    (let c : Config := { skewed with rot := .none };
      (2 : Int) < logicalW c ∧ (9 : Int) < logicalH c ∧ ((2 : Nat) : Int) = 2 ∧ ((9 : Nat) : Int) = 9) := by
  unfold PaddingBit; decide

/-- Each clause at the boundaries of its range: column 2 is the last MAPPED one, 9 the last in bounds, 10 is out. -/
theorem test_witness_MapReadTargets :
    (mapRead skewed 10 0 = .invalid ∧ inBounds skewed (-1) 0 = false) ∧
    (small.readMap = .rotationAware ∧ mapRead small 23 15 = .mapped 47 7) ∧
    (skewed.readMap = .nativeAlways ∧ inBounds skewed 2 2 = true ∧ (2 : Int) < nw skewed ∧ (2 : Int) < nh skewed ∧
      mapRead skewed 2 2 = .mapped 2 2) ∧
    (mapRead skewed 3 0 = .unmapped ∧ mapRead skewed 9 2 = .unmapped ∧ inBounds skewed 3 0 = true ∧
      (nw skewed : Int) ≤ 3) := by decide

theorem test_witness_PlotWritesOneBit :
    mapPixel cleared.cfg 24 0 = none ∧ mapPixel cleared.cfg 23 15 = some (47, 7) ∧ (6 : Nat) ≠ 7 ∧ (46 : Nat) ≠ 47 := by
  decide

theorem test_witness_PlotOrderIsInvisible : SamePixels [(0, 0), (1, 0), (0, 0)] [(1, 0), (0, 0)] := by
  intro p; simp; tauto

theorem test_witness_ClearZeroesFramebuffer :
    47 < fbBytes cleared.cfg ∧ mapRead cleared.cfg 0 0 ≠ .unmapped ∧ mapRead cleared.cfg (-1) 0 ≠ .unmapped := by decide

theorem test_witness_ColourCommands :
    exec (.setfgbg true false) cleared = .next { cleared with fg := true, bg := some false } := rfl

theorem test_witness_SetpixelPaintsItsPixel : inBounds cleared.cfg 24 0 = false := by decide

theorem test_witness_GetpixelReadsItsPixel :
    mapRead skewed 10 0 = .invalid ∧ mapRead skewed 9 2 = .unmapped ∧ mapRead skewed 1 0 = .mapped 1 0 := by decide

theorem test_witness_SetpixelThenGetpixel :
    let c : Config := { skewed with readMap := .rotationAware };
    c.readMap = .rotationAware ∧ inBounds c 9 2 = true := by decide

theorem test_witness_ColoursReadByCommands :
    (∃ t, exec (.line 0 0 5 2) cleared = .next t) ∧ (∃ t, exec .clear cleared = .next t) ∧
    (Instr.line 0 0 5 2).op ≠ .setfg ∧ (Instr.line 0 0 5 2).op ≠ .setfgbg ∧ (Instr.line 0 0 5 2).op ≠ .blit ∧
    (Instr.line 0 0 5 2).op ≠ .blitx ∧ Instr.clear.op = .clear :=
  ⟨⟨_, rfl⟩, ⟨_, rfl⟩, by decide, by decide, by decide, by decide, rfl⟩

/-! ### Witnesses: shapes -/

theorem test_witness_DegenerateShapesDrawNothing :
    ((0 : Int) ≤ 0 ∨ (3 : Int) ≤ 0) ∧ (-1 : Int) < 0 ∧ inBounds cleared.cfg 24 0 = false ∧
    inBounds cleared.cfg 0 (-1) = false ∧
    ∀ p ∈ linePixels 24 0 30 3, inBounds cleared.cfg p.1 p.2 = false := by decide

/-- A vertical, a horizontal, a gentle and a steep line (D11, D12, D1, D3), a 45 degree line and the longest run. -/
theorem test_witness_LinePixelsClosedForm :
    (4 : Int) = 4 ∧ (1 : Int) = 1 ∧
    ((0 : Int) < 5 ∧ (0 : Int) ≠ 2 ∧ (((2 : Int) - 0).natAbs : Int) ≤ 5 - 0) ∧
    ((0 : Int) < 5 ∧ (0 : Int) ≠ -5 ∧ (((-5 : Int) - 0).natAbs : Int) ≤ 5 - 0) ∧
    ((0 : Int) < 5 ∧ (0 : Int) ≠ 2 ∧ (((2 : Int) - 0).natAbs : Int) < 5 - 0) := by decide

theorem test_witness_WalkTracksTheCircle : (0 : Int) ≤ 5 ∧ (0 : Int) < 5 ∧ (walk 5)[3]? = some (4, 3) := by decide

theorem test_witness_CirclesFromTheWalk :
    (3 : Int) = ((13 : Int) - 10).natAbs ∧ (1 : Int) = ((9 : Int) - 10).natAbs := by decide

theorem test_witness_CircleInsideFillcircle : ((10, 5) : Pixel) ∈ circlePixels 10 10 5 := by decide

theorem test_witness_CircleSymmetryAndRows :
    (((10 + 3, 10 + -4) : Pixel) ∈ circlePixels 10 10 5) ∧ ((10 + 3, 10 + -4) : Pixel) ∈ fillcirclePixels 10 10 5 ∧
    ((9, 10 + 5) : Pixel) ∈ fillcirclePixels 10 10 5 ∧ ((11, 10 + 5) : Pixel) ∈ fillcirclePixels 10 10 5 := by decide

theorem test_witness_ClampedRadius :
    (0 : Int) < 4 ∧ (0 : Int) < 7 ∧ (-3 : Int) ≤ 0 ∧ ((0 : Int) ≤ 2 ∧ 2 * (2 : Int) ≤ min 4 7) ∧ min (4 : Int) 7 / 2 ≤ 3 := by
  decide

theorem test_witness_ZeroRadiusIsPlainRectangle : clampR 5 5 (-3) = 0 ∧ clampR 7 1 3 = 0 := by decide

theorem test_witness_RoundrectsFromTheWalk :
    (0 : Int) = 2 - 2 ∧ (2 : Int) = 3 - 1 ∧ (3 : Int) = clampR 8 6 10 := by decide

theorem test_witness_RoundrectInsideFillroundrect :
    ((1, 0) : Pixel) ∈ roundrectPixels 0 0 4 4 2 ∧ ((1, 0) : Pixel) ∈ fillroundrectPixels 0 0 4 4 2 := by decide

/-- Three vertices on one row (T9), a middle vertex between (T4), on the first and on the last row (T2, T12). -/
theorem test_witness_FilltriangleRows :
    ((2 : Int) ≤ 2 ∧ (2 : Int) = 2) ∧ ((1 : Int) ≤ 3 ∧ (3 : Int) ≤ 7 ∧ (1 : Int) < 7) ∧
    ((0 : Int) ≤ 0 ∧ (0 : Int) ≤ 4 ∧ (0 : Int) < 4) ∧ ((0 : Int) ≤ 3 ∧ (3 : Int) ≤ 3 ∧ (0 : Int) < 3) := by decide

/-! ### Witnesses: blits -/

theorem test_witness_SourceMemoryIsReadOnlyAndWraps :
    (let s : State := { withBitmaps with turns := [.source 0x100 0xFF] };
      (nextTurn s).1 = .source 0x100 0xFF ∧ (0x101 : Nat) ≠ (0x100 : Word).toNat ∧
        step s = .next (after (step s)) ∧ (after (step s)).srcMem ≠ s.srcMem) ∧
    withBitmaps.srcMoved = false ∧ ({ withBitmaps with srcMoved := true } : State).srcMoved = true :=
  ⟨⟨rfl, by decide, step_next (by decide), by decide⟩, rfl, rfl⟩

theorem test_witness_TransformTable : (BitmapRot.r0 = .r0 ∨ BitmapRot.r0 = .r180) ∧
    (BitmapRot.cw = .ccw ∨ BitmapRot.cw = .cw) := by decide

theorem test_witness_TransformIsBijection :
    (0 : Int) < 3 ∧ (0 : Int) < 2 ∧ ((0 : Int) ≤ 2 ∧ (2 : Int) < 3 ∧ (0 : Int) ≤ 1 ∧ (1 : Int) < 2) ∧
    ((0 : Int) ≤ 1 ∧ (1 : Int) < xformW 3 2 .cw ∧ (0 : Int) ≤ 2 ∧ (2 : Int) < xformH 3 2 .cw) ∧
    xform 1 1 3 2 .cw .flipH = xform 1 1 3 2 .cw .flipH := by decide

theorem test_witness_TransformInverses :
    (BitmapRot.cw, BitmapRot.ccw) ∈
      [(BitmapRot.r0, BitmapRot.r0), (.ccw, .cw), (.r180, .r180), (.cw, .ccw)] := by decide

theorem test_witness_BlitxDrawsSource :
    (((2 : Nat) : Int) < 3 ∧ ((1 : Nat) : Int) < 2 ∧
      mapPixel withBitmaps.cfg (10 + (xform 2 1 3 2 .cw .noflip).1) (10 + (xform 2 1 3 2 .cw .noflip).2) =
        some (34, 4)) ∧
    ∀ c r : Nat, (c : Int) < 0 → (r : Int) < 2 →
      mapPixel withBitmaps.cfg (10 + (xform c r 0 2 .cw .noflip).1) (10 + (xform c r 0 2 .cw .noflip).2) ≠ some (0, 0) :=
  ⟨by decide, fun c _ h => absurd h (by omega)⟩

theorem test_witness_BlitDrawsSource :
    (((2 : Nat) : Int) < 3 ∧ ((1 : Nat) : Int) < 2 ∧ mapPixel withBitmaps.cfg (10 + 2) (10 + 1) = some (36, 3)) ∧
    ∀ c r : Nat, (c : Int) < 1 → (r : Int) < 1 → mapPixel withBitmaps.cfg (10 + c) (10 + r) ≠ some (0, 0) := by
  refine ⟨by decide, fun c r hc hr => ?_⟩
  obtain rfl : c = 0 := by omega
  obtain rfl : r = 0 := by omega
  decide

end Sys2Proof.Tests
end

section
/-!
PROOFS. The state family (10_state.md): reset, the invariant, the phases of R32, who writes the colours, RESULT and the
framebuffer, the register space and the CMD port.
-/
namespace Sys2Proof.Machine

/-! ### The turn used up, and what the agents outside the engine leave alone -/

section nextTurn

variable (s : State)

@[simp] theorem nextTurn_cfg : (nextTurn s).2.cfg = s.cfg := by rw [nextTurn_state]
@[simp] theorem nextTurn_fb : (nextTurn s).2.fb = s.fb := by rw [nextTurn_state]
@[simp] theorem nextTurn_fg : (nextTurn s).2.fg = s.fg := by rw [nextTurn_state]
@[simp] theorem nextTurn_bg : (nextTurn s).2.bg = s.bg := by rw [nextTurn_state]
@[simp] theorem nextTurn_result : (nextTurn s).2.result = s.result := by rw [nextTurn_state]
@[simp] theorem nextTurn_status : (nextTurn s).2.status = s.status := by rw [nextTurn_state]
@[simp] theorem nextTurn_errWord : (nextTurn s).2.errWord = s.errWord := by rw [nextTurn_state]
@[simp] theorem nextTurn_pkt : (nextTurn s).2.pkt = s.pkt := by rw [nextTurn_state]
@[simp] theorem nextTurn_phase : (nextTurn s).2.phase = s.phase := by rw [nextTurn_state]
@[simp] theorem nextTurn_held : (nextTurn s).2.held = s.held := by rw [nextTurn_state]
@[simp] theorem nextTurn_host : (nextTurn s).2.host = s.host := by rw [nextTurn_state]
@[simp] theorem nextTurn_srcMem : (nextTurn s).2.srcMem = s.srcMem := by rw [nextTurn_state]
@[simp] theorem nextTurn_fbDraw : (nextTurn s).2.fbDraw = s.fbDraw := by rw [nextTurn_state]
@[simp] theorem nextTurn_draws : (nextTurn s).2.draws = s.draws := by rw [nextTurn_state]
@[simp] theorem nextTurn_readReg (n : BitVec 8) : (nextTurn s).2.readReg n = s.readReg n := by
  rw [nextTurn_state]; rfl
@[simp] theorem nextTurn_fetchCommand : fetchCommand (nextTurn s).2 = fetchCommand s := by
  rw [nextTurn_state]; rfl

end nextTurn

theorem SameEngine.trans {s t u : State} (h : SameEngine s t) (h' : SameEngine t u) : SameEngine s u where
  cfg := h'.cfg.trans h.cfg
  fb := h'.fb.trans h.fb
  fbDraw := h'.fbDraw.trans h.fbDraw
  fg := h'.fg.trans h.fg
  bg := h'.bg.trans h.bg
  result := h'.result.trans h.result
  status := h'.status.trans h.status
  errWord := h'.errWord.trans h.errWord
  pkt := h'.pkt.trans h.pkt
  phase := h'.phase.trans h.phase

theorem sameEngine_nextTurn (s : State) : SameEngine s (nextTurn s).2 := by constructor <;> simp

theorem sameEngine_hostRead (s : State) (n : BitVec 8) : SameEngine s (s.hostRead n) := by constructor <;> rfl

theorem sameEngine_writeSource (s : State) (a : Word) (b : Byte) : SameEngine s (s.writeSource a b) := by
  constructor <;> rfl

/-- A read through the port touches the model's own fields only. -/
theorem transportRead_frame (s : State) (i : Nat) :
    s.transportRead i =
      { s with portAnswer := (s.transportRead i).portAnswer, draws := (s.transportRead i).draws } := by
  unfold State.transportRead
  split <;> rfl

theorem sameEngine_transportRead (s : State) (i : Nat) : SameEngine s (s.transportRead i) := by
  rw [transportRead_frame]
  constructor <;> rfl

theorem le_transportRead_draws (s : State) (i : Nat) : s.draws ≤ (s.transportRead i).draws := by
  unfold State.transportRead
  split
  · exact Nat.le_succ _
  · exact Nat.le_refl _

/-- Framebuffer bits depend on the listed bytes and the draw of the others only. -/
theorem fbBit_congr {s t : State} (hfb : t.fb = s.fb) (hdraw : t.fbDraw = s.fbDraw) (i b : Nat) :
    t.fbBit i b = s.fbBit i b := by
  simp [State.fbBit, State.fbByte, hfb, hdraw]

/-! ### What the packet decoder and the host's turn leave alone -/

/-- Accepting a word changes PKT, STATUS, PHASE and srcMoved only. -/
theorem acceptWord_frame (ks : List OperandKind) (pkt : List Word) (s : State) :
    acceptWord ks pkt s =
      { s with
        pkt := pkt, status := (acceptWord ks pkt s).status, phase := (acceptWord ks pkt s).phase
        srcMoved := (acceptWord ks pkt s).srcMoved } := by
  unfold acceptWord
  split <;> rfl

/-- `OnCmdWord` changes STATUS, ERRWORD, PKT, PHASE and srcMoved only. -/
theorem onCmdWord_frame (w : Word) (s : State) :
    onCmdWord w s =
      { s with
        status := (onCmdWord w s).status, errWord := (onCmdWord w s).errWord, pkt := (onCmdWord w s).pkt
        phase := (onCmdWord w s).phase, srcMoved := (onCmdWord w s).srcMoved } := by
  rcases onCmdWord_cases w s with ⟨_, h⟩ | ⟨_, _, _, _, h⟩ | ⟨_, _, _, _, h⟩ | ⟨_, _, _, _, _, _, _, h⟩ |
    ⟨_, _, _, _, _, h⟩
  · rw [h]
  · rw [h]; rfl
  · rw [h, acceptWord_frame]
  · rw [h]; rfl
  · rw [h, acceptWord_frame]

/-- The host's turn changes the registers of the packet decoder and what is the host's own. -/
theorem hostTurn_frame (s : State) :
    hostTurn s =
      { s with
        status := (hostTurn s).status, errWord := (hostTurn s).errWord, pkt := (hostTurn s).pkt
        phase := (hostTurn s).phase, srcMoved := (hostTurn s).srcMoved, held := (hostTurn s).held
        host := (hostTurn s).host, regAnswer := (hostTurn s).regAnswer } := by
  rcases hostTurn_cases s with ⟨h, _⟩ | ⟨_, _, _, h⟩ | ⟨_, _, _, _, h⟩ | ⟨_, _, _, _, _, h⟩ | ⟨_, _, _, _, _, h⟩ |
    ⟨_, _, _, _, _, _, h⟩
  · rw [h]
  · rw [h, onCmdWord_frame]
  · rw [h]; rfl
  · rw [h]
  · rw [h, onCmdWord_frame]
  · rw [h]

section hostTurn

variable (s : State)

@[simp] theorem hostTurn_fb : (hostTurn s).fb = s.fb := by rw [hostTurn_frame]
@[simp] theorem hostTurn_fbDraw : (hostTurn s).fbDraw = s.fbDraw := by rw [hostTurn_frame]
@[simp] theorem hostTurn_fg : (hostTurn s).fg = s.fg := by rw [hostTurn_frame]
@[simp] theorem hostTurn_bg : (hostTurn s).bg = s.bg := by rw [hostTurn_frame]
@[simp] theorem hostTurn_result : (hostTurn s).result = s.result := by rw [hostTurn_frame]

end hostTurn

theorem acceptWord_phase (ks : List OperandKind) (pkt : List Word) (s : State) :
    (acceptWord ks pkt s).phase = .receiving ∨ (acceptWord ks pkt s).phase = .executing := by
  unfold acceptWord
  split
  · exact .inr rfl
  · exact .inl rfl

/-- A word at the decoder leaves PHASE alone, or takes the engine from a live phase to one of three (R32). -/
theorem onCmdWord_phase (w : Word) (s : State) :
    (onCmdWord w s).phase = s.phase ∨ s.phase ≠ .halted ∧
      ((onCmdWord w s).phase = .receiving ∨ (onCmdWord w s).phase = .executing ∨ (onCmdWord w s).phase = .halted) := by
  rcases onCmdWord_cases w s with ⟨_, h⟩ | ⟨hp, _, _, _, h⟩ | ⟨hp, _, _, _, h⟩ | ⟨hp, _, _, _, _, _, _, h⟩ |
    ⟨hp, _, _, _, _, h⟩ <;> rw [h]
  · exact .inl rfl
  · exact .inr ⟨hp, .inr (.inr rfl)⟩
  · exact .inr ⟨hp, (acceptWord_phase _ _ s).imp_right .inl⟩
  · exact .inr ⟨hp, .inr (.inr rfl)⟩
  · exact .inr ⟨hp, (acceptWord_phase _ _ s).imp_right .inl⟩

theorem Phase.idle_or_receiving {p : Phase} (hx : p ≠ .executing) (hh : p ≠ .halted) : p = .idle ∨ p = .receiving := by
  cases p <;> simp at hx hh ⊢

/-- The host's turn leaves PHASE alone, or takes an IDLE or RECEIVING engine to one of three phases (R32). -/
theorem hostTurn_phase (s : State) :
    (hostTurn s).phase = s.phase ∨ (s.phase = .idle ∨ s.phase = .receiving) ∧
      ((hostTurn s).phase = .receiving ∨ (hostTurn s).phase = .executing ∨ (hostTurn s).phase = .halted) := by
  have given {w : Word} {u : State} (h : hostTurn s = onCmdWord w u) (hu : u.phase = s.phase)
      (hx : s.phase ≠ .executing) : (hostTurn s).phase = s.phase ∨ (s.phase = .idle ∨ s.phase = .receiving) ∧
      ((hostTurn s).phase = .receiving ∨ (hostTurn s).phase = .executing ∨ (hostTurn s).phase = .halted) := by
    rw [h]
    refine (onCmdWord_phase w u).imp (·.trans hu) (And.imp_left fun hh => ?_)
    exact Phase.idle_or_receiving hx (hu ▸ hh)
  rcases hostTurn_cases s with ⟨h, _⟩ | ⟨w, _, hx, h⟩ | ⟨_, _, _, _, h⟩ | ⟨_, _, _, _, _, h⟩ | ⟨w, _, _, _, hx, h⟩ |
    ⟨_, _, _, _, _, _, h⟩
  · exact .inl (by rw [h])
  · exact given h rfl hx
  · exact .inl (by rw [h]; rfl)
  · exact .inl (by rw [h])
  · exact given h rfl hx
  · exact .inl (by rw [h])

/-! ### What a step can do to the engine -/

/-- A step runs a command to its finish event, is the host's turn or a reset, or leaves the engine alone. -/
theorem step_engine_cases {s t : State} (h : step s = .next t) :
    (∃ i u, EngineRuns s i ∧ exec i (nextTurn s).2 = .next u ∧ t = finishCommand u) ∨
    ((nextTurn s).1 = .host ∧ t = hostTurn (nextTurn s).2) ∨
    ((nextTurn s).1 = .reset ∧ t = hardReset (nextTurn s).2) ∨
    SameEngine s t := by
  have same {u : State} (hu : SameEngine (nextTurn s).2 u) : SameEngine s u := (sameEngine_nextTurn s).trans hu
  rcases step_cases h with ⟨hturn, hp, hrun⟩ | ⟨_, _, rfl⟩ | ⟨hturn, ht⟩ | ⟨n, _, rfl⟩ | ⟨i, _, rfl⟩ | ⟨hturn, ht⟩ |
    ⟨a, b, _, rfl⟩
  · obtain ⟨i, u, hf, hu, ht⟩ := runCommand_next hrun
    rw [nextTurn_fetchCommand] at hf
    exact .inl ⟨i, u, ⟨hturn, hp, hf⟩, hu, ht⟩
  · exact .inr (.inr (.inr (sameEngine_nextTurn s)))
  · exact .inr (.inl ⟨hturn, ht⟩)
  · exact .inr (.inr (.inr (same (sameEngine_hostRead _ n))))
  · exact .inr (.inr (.inr (same (sameEngine_transportRead _ i))))
  · exact .inr (.inr (.inl ⟨hturn, ht⟩))
  · exact .inr (.inr (.inr (same (sameEngine_writeSource _ a b))))

/-- Which phase can follow which, and through whose turn (R32). -/
theorem step_phase {s t : State} (h : step s = .next t) (hne : t.phase ≠ s.phase) :
    (nextTurn s).1 = .reset ∧ t.phase = .idle ∨
    (nextTurn s).1 = .engine ∧ s.phase = .executing ∧ t.phase = .idle ∨
    (nextTurn s).1 = .host ∧ (s.phase = .idle ∨ s.phase = .receiving) ∧
      (t.phase = .receiving ∨ t.phase = .executing ∨ t.phase = .halted) := by
  rcases step_engine_cases h with ⟨i, u, ⟨hturn, hx, _⟩, _, rfl⟩ | ⟨hturn, rfl⟩ | ⟨hturn, rfl⟩ | hsame
  · exact .inr (.inl ⟨hturn, hx, rfl⟩)
  · have hp := hostTurn_phase (nextTurn s).2
    rw [nextTurn_phase] at hp
    exact .inr (.inr ⟨hturn, hp.resolve_left hne⟩)
  · exact .inl ⟨hturn, rfl⟩
  · exact absurd hsame.phase hne

/-! ### Packets: a whole one decodes, and one more legal word keeps a partial one legal -/

/-- As many legal operand words as a command asks for are all taken. -/
theorem takeOperands_of_operandsOk {ks : List OperandKind} {ws : List Word} (hlen : ws.length = ks.length)
    (hok : operandsOk ks ws = true) : takeOperands ks ws = .ok (ws, []) := by
  induction ks generalizing ws with
  | nil => rw [List.length_eq_zero_iff.mp hlen]; rfl
  | cons k ks ih =>
    cases ws with
    | nil => simp at hlen
    | cons w ws =>
      simp only [operandsOk, List.zip_cons_cons, List.all_cons, Bool.and_eq_true] at hok
      obtain ⟨hw, hws⟩ := hok
      simp [takeOperands, hw, ih (Nat.succ.inj hlen) hws]

/-- A legal header with all its legal operand words is a command. -/
theorem fetchCommand_isSome_of_complete {s : State} {h : Word} {ws : List Word} {op : Op} (hpkt : s.pkt = h :: ws)
    (hop : headerOp h = .ok op) (hlen : ws.length = opK op) (hok : operandsOk (opKinds op) ws = true) :
    (fetchCommand s).isSome = true := by
  simp [fetchCommand, hpkt, decode, hop, takeOperands_of_operandsOk hlen hok]

theorem partialPacket_iff {pkt : List Word} :
    partialPacket pkt = true ↔
      ∃ h ws op, pkt = h :: ws ∧ headerOp h = .ok op ∧ ws.length < opK op ∧ operandsOk (opKinds op) ws = true := by
  cases pkt with
  | nil => simp [partialPacket]
  | cons h ws => cases ho : headerOp h <;> simp [partialPacket, ho]

/-- The operand words a legal header asks for are those of its command. -/
theorem packetKinds_of_headerOp {h : Word} {op : Op} (hop : headerOp h = .ok op) : packetKinds h = opKinds op := by
  unfold headerOp at hop
  unfold packetKinds
  cases hc : opOfCode (opField h) with
  | none => simp [hc] at hop
  | some op' =>
    simp only [hc] at hop ⊢
    split at hop
    · cases hop; rfl
    · cases hop

/-- One more legal operand word, in its place. -/
theorem operandsOk_append {ks : List OperandKind} {ws : List Word} {w : Word} (hok : operandsOk ks ws = true)
    (hw : ∀ k, ks[ws.length]? = some k → operandOk k w = true) : operandsOk ks (ws ++ [w]) = true := by
  induction ks generalizing ws with
  | nil => simp [operandsOk]
  | cons k ks ih =>
    cases ws with
    | nil => simpa [operandsOk] using hw k
    | cons v ws =>
      simp only [operandsOk, List.zip_cons_cons, List.all_cons, Bool.and_eq_true, List.cons_append] at hok ⊢
      obtain ⟨hv, hws⟩ := hok
      exact ⟨hv, ih hws (by simpa using hw)⟩

/-! ### PHASE, PKT and STATUS agree -/

/-- The table of R32, row by row. -/
theorem phaseOk_iff {s : State} :
    phaseOk s = true ↔
      (s.phase = .idle ∧ s.pkt = [] ∧ s.status = Status.clear) ∨
      (s.phase = .receiving ∧ partialPacket s.pkt = true ∧ s.status = statusReceiving) ∨
      (s.phase = .executing ∧ (fetchCommand s).isSome = true ∧ s.status = statusExecuting) ∨
      (s.phase = .halted ∧ s.pkt = [] ∧ ∃ e, s.status = statusHalted e) := by
  have errors : (∃ e, s.status = statusHalted e) ↔ s.status = statusHalted .illegalOpcode ∨
      s.status = statusHalted .reservedHeader ∨ s.status = statusHalted .reservedOperand := by
    constructor
    · rintro ⟨_ | _ | _, h⟩
      · exact .inl h
      · exact .inr (.inl h)
      · exact .inr (.inr h)
    · rintro (h | h | h) <;> exact ⟨_, h⟩
  rw [errors]
  unfold phaseOk
  cases hp : s.phase <;> simp

/-- The agreement depends on PHASE, PKT and STATUS only. -/
theorem SameEngine.phaseOk_eq {s t : State} (e : SameEngine s t) : phaseOk t = phaseOk s := by
  simp only [phaseOk, fetchCommand, e.phase, e.pkt, e.status]

/-- An accepted word leaves a packet that waits for operands or a whole one that executes (R90). -/
theorem phaseOk_acceptWord {s : State} {h : Word} {ws : List Word} {op : Op} (hop : headerOp h = .ok op)
    (hlen : ws.length ≤ opK op) (hok : operandsOk (opKinds op) ws = true) :
    phaseOk (acceptWord (opKinds op) (h :: ws) s) = true := by
  rw [phaseOk_iff]
  unfold acceptWord
  split
  · next hfull =>
    have hfull : ws.length = opK op := by simpa [opK, Nat.add_comm] using hfull
    exact .inr (.inr (.inl ⟨rfl, fetchCommand_isSome_of_complete rfl hop hfull hok, rfl⟩))
  · next hpart =>
    have hpart : ws.length ≠ opK op := by simpa [opK, Nat.add_comm] using hpart
    exact .inr (.inl ⟨rfl, partialPacket_iff.mpr ⟨h, ws, op, rfl, hop, by omega, hok⟩, rfl⟩)

/-- The decoder keeps PHASE, PKT and STATUS in agreement (R90). -/
theorem phaseOk_onCmdWord {s : State} (hok : phaseOk s = true) (hx : s.phase ≠ .executing) (w : Word) :
    phaseOk (onCmdWord w s) = true := by
  have halts (e : CmdErr) : phaseOk (cmdError e w s) = true :=
    phaseOk_iff.mpr (.inr (.inr (.inr ⟨rfl, rfl, e, rfl⟩)))
  rcases onCmdWord_cases w s with ⟨_, h⟩ | ⟨_, _, e, _, h⟩ | ⟨_, _, op, hop, h⟩ | ⟨_, _, _, _, _, _, _, h⟩ |
    ⟨hh, hd, ws, hpkt, hw, h⟩ <;> rw [h]
  · exact hok
  · exact halts e
  · exact phaseOk_acceptWord hop (Nat.zero_le _) (by simp [operandsOk])
  · exact halts .reservedOperand
  · rcases phaseOk_iff.mp hok with ⟨_, hnil, _⟩ | ⟨_, hpart, _⟩ | ⟨hp, _⟩ | ⟨hp, _⟩
    · rw [hpkt] at hnil; cases hnil
    · obtain ⟨hd', ws', op, heq, hop, hlen, hops⟩ := partialPacket_iff.mp hpart
      obtain ⟨rfl, rfl⟩ := List.cons.inj (hpkt.symm.trans heq)
      rw [packetKinds_of_headerOp hop] at hw ⊢
      exact phaseOk_acceptWord hop (by simpa using hlen) (operandsOk_append hops hw)
    · exact absurd hp hx
    · exact absurd hp hh

/-! ### Each operation keeps the invariant -/

/-- The invariant where the engine is unchanged: what is left concerns SrcMem, the held write and the draws. -/
theorem Inv.of_sameEngine {s t : State} (h : Inv s) (e : SameEngine s t) (hwf : Memory.wf t.srcMem)
    (hbelow : Memory.below 4294967296 t.srcMem) (hheld : t.held ≠ none → t.phase = .executing ∨ t.phase = .idle)
    (hdraws : s.draws ≤ t.draws) : Inv t where
  fbWf := by rw [e.fb]; exact h.fbWf
  fbBelow := by rw [e.fb, e.cfg]; exact h.fbBelow
  srcWf := hwf
  srcBelow := hbelow
  resultBit := by rw [e.result]; exact h.resultBit
  phaseOk := e.phaseOk_eq.trans h.phaseOk
  errWordOk := by rw [e.phase, e.errWord]; exact h.errWordOk
  heldOk := hheld
  drawsOk := by rw [e.fbDraw]; exact h.drawsOk.trans_le hdraws

theorem Inv.nextTurn {s : State} (h : Inv s) : Inv (nextTurn s).2 :=
  h.of_sameEngine (sameEngine_nextTurn s) (by simpa using h.srcWf) (by simpa using h.srcBelow) (by simpa using h.heldOk)
    (by simp)

theorem Inv.hostRead {s : State} (h : Inv s) (n : BitVec 8) : Inv (s.hostRead n) :=
  h.of_sameEngine (sameEngine_hostRead s n) h.srcWf h.srcBelow h.heldOk (Nat.le_refl _)

theorem Inv.transportRead {s : State} (h : Inv s) (i : Nat) : Inv (s.transportRead i) := by
  refine h.of_sameEngine (sameEngine_transportRead s i) ?_ ?_ ?_ (le_transportRead_draws s i) <;>
    rw [transportRead_frame]
  · exact h.srcWf
  · exact h.srcBelow
  · exact h.heldOk

theorem Inv.writeSource {s : State} (h : Inv s) (a : Word) (b : Byte) : Inv (s.writeSource a b) :=
  h.of_sameEngine (sameEngine_writeSource s a b) (update_wf h.srcWf _ _ _) (update_below h.srcBelow a.isLt _ _)
    h.heldOk (Nat.le_refl _)

/-- Reset needs a good SrcMem only: everything else it sets. -/
theorem inv_hardReset {s : State} (hwf : Memory.wf s.srcMem) (hbelow : Memory.below 4294967296 s.srcMem) :
    Inv (hardReset s) where
  fbWf := List.Pairwise.nil
  fbBelow := by simp
  srcWf := hwf
  srcBelow := hbelow
  resultBit := .inl rfl
  phaseOk := phaseOk_iff.mpr (.inl ⟨rfl, rfl, rfl⟩)
  errWordOk _ := rfl
  heldOk h := absurd rfl h
  drawsOk := Nat.lt_succ_self _

/-- ERRWORD is written where the engine halts only (R28). -/
theorem onCmdWord_errWord (w : Word) (s : State) :
    (onCmdWord w s).errWord = s.errWord ∨ (onCmdWord w s).phase = .halted := by
  rcases onCmdWord_cases w s with ⟨_, h⟩ | ⟨_, _, _, _, h⟩ | ⟨_, _, _, _, h⟩ | ⟨_, _, _, _, _, _, _, h⟩ |
    ⟨_, _, _, _, _, h⟩ <;> rw [h]
  · exact .inl rfl
  · exact .inr rfl
  · exact .inl (by rw [acceptWord_frame])
  · exact .inr rfl
  · exact .inl (by rw [acceptWord_frame])

/-- A word at the decoder of an engine that does not execute. -/
theorem Inv.onCmdWord {s : State} (h : Inv s) (hx : s.phase ≠ .executing) (hheld : s.held = none) (w : Word) :
    Inv (onCmdWord w s) := by
  have hphase := phaseOk_onCmdWord h.phaseOk hx w
  have herr : (Machine.onCmdWord w s).phase ≠ .halted → (Machine.onCmdWord w s).errWord = 0 := by
    intro hlive
    rcases onCmdWord_errWord w s with he | hh
    · rcases onCmdWord_phase w s with hp | ⟨hp, _⟩
      · rw [he, h.errWordOk (hp ▸ hlive)]
      · rw [he, h.errWordOk hp]
    · exact absurd hh hlive
  rw [onCmdWord_frame] at hphase herr ⊢
  exact ⟨h.fbWf, h.fbBelow, h.srcWf, h.srcBelow, h.resultBit, hphase, herr, fun hn => absurd hheld hn, h.drawsOk⟩

/-- Another queue of host accesses, and another held write where the port may hold one. -/
theorem Inv.setHost {s : State} (h : Inv s) (rest : List HostAccess) (held : Option Word)
    (hheld : held ≠ none → s.phase = .executing ∨ s.phase = .idle) : Inv { s with host := rest, held := held } :=
  h.of_sameEngine (by constructor <;> rfl) h.srcWf h.srcBelow hheld (Nat.le_refl _)

theorem Inv.hostTurn {s : State} (h : Inv s) : Inv (hostTurn s) := by
  have quiet (rest : List HostAccess) (hnone : s.held = none) : Inv { s with host := rest } :=
    h.setHost rest s.held (absurd hnone)
  rcases hostTurn_cases s with ⟨ht, _⟩ | ⟨w, _, hx, ht⟩ | ⟨n, rest, hnone, _, ht⟩ | ⟨w, rest, _, _, hx, ht⟩ |
    ⟨w, rest, hnone, _, hx, ht⟩ | ⟨_, _, rest, hnone, _, _, ht⟩ <;> rw [ht]
  · exact h
  · exact (h.setHost s.host none (absurd rfl)).onCmdWord hx rfl w
  · exact (quiet rest hnone).hostRead n
  · exact h.setHost rest (some w) fun _ => .inl hx
  · exact (quiet rest hnone).onCmdWord hx hnone w
  · exact quiet rest hnone

/-- A command leaves RESULT alone, or is a GETPIXEL and writes one pixel value (R26). -/
theorem exec_result {i : Instr} {s t : State} (h : exec i s = .next t) :
    t.result = s.result ∨ (∃ x y, i = .getpixel x y) ∧ ∃ v, t.result = resultWord v := by
  rcases exec_cases h with ⟨_, rfl⟩ | ⟨_, _, rfl⟩ | ⟨_, _, _, rfl⟩ | ⟨x, y, hi, rfl⟩ | ⟨_, _, rfl⟩
  · exact .inl rfl
  · exact .inl rfl
  · exact .inl rfl
  · exact .inr ⟨⟨x, y, hi⟩, _, rfl⟩
  · exact .inl rfl

theorem resultWord_eq_zero_or_one (v : Bool) : resultWord v = 0 ∨ resultWord v = 1 := by cases v <;> decide

/-- The command that executes, and its finish event. -/
theorem Inv.finishCommand {s t : State} {i : Instr} (h : Inv s) (hx : s.phase = .executing)
    (ht : exec i s = .next t) : Inv (finishCommand t) := by
  obtain ⟨hwf, hbelow⟩ := exec_fb_wf ht h.fbWf h.fbBelow
  have hresult : t.result = 0 ∨ t.result = 1 := by
    rcases exec_result ht with hr | ⟨_, v, hr⟩ <;> rw [hr]
    · exact h.resultBit
    · exact resultWord_eq_zero_or_one v
  have herr : s.errWord = 0 := h.errWordOk (by rw [hx]; decide)
  rw [exec_frame ht]
  exact ⟨hwf, hbelow, h.srcWf, h.srcBelow, hresult, phaseOk_iff.mpr (.inl ⟨rfl, rfl, rfl⟩), fun _ => herr,
    fun _ => .inr rfl, h.drawsOk.trans (Nat.lt_succ_self _)⟩

/-- Settles O3: every operation that a turn performs keeps the invariant. -/
theorem stepKeepsInvariant : Obligations.StepKeepsInvariant := by
  intro s t hs h
  have hn := hs.nextTurn
  rcases step_cases h with ⟨_, hp, hrun⟩ | ⟨_, _, rfl⟩ | ⟨_, rfl⟩ | ⟨n, _, rfl⟩ | ⟨i, _, rfl⟩ | ⟨_, rfl⟩ | ⟨a, b, _, rfl⟩
  · obtain ⟨i, u, _, hu, rfl⟩ := runCommand_next hrun
    exact hn.finishCommand (by simpa using hp) hu
  · exact hn
  · exact hn.hostTurn
  · exact hn.hostRead n
  · exact hn.transportRead i
  · exact inv_hardReset hn.srcWf hn.srcBelow
  · exact hn.writeSource a b

/-- Settles O2: the state after reset is what a reset leaves of a machine with an empty SrcMem list. -/
theorem resetStateMeetsInvariant : Obligations.ResetStateMeetsInvariant :=
  inv_hardReset (s := { State.reset with draws := 0 }) List.Pairwise.nil (by simp [State.reset])

/-! ### What each agent's turn answers, and who writes what -/

section turns

variable {s : State}

theorem step_of_reset (h : (nextTurn s).1 = .reset) : step s = .next (hardReset (nextTurn s).2) := by
  simp [step, takeTurn, h]

theorem step_of_host (h : (nextTurn s).1 = .host) : step s = .next (hostTurn (nextTurn s).2) := by
  simp [step, takeTurn, h]

theorem step_of_observer {n : BitVec 8} (h : (nextTurn s).1 = .observer n) :
    step s = .next ((nextTurn s).2.hostRead n) := by
  simp [step, takeTurn, h]

theorem hostTurn_of_held_executing {w : Word} (h : s.held = some w) (hx : s.phase = .executing) : hostTurn s = s := by
  simp [hostTurn, h, hx]

theorem hostTurn_of_held_ready {w : Word} (h : s.held = some w) (hx : s.phase ≠ .executing) :
    hostTurn s = onCmdWord w { s with held := none } := by
  simp [hostTurn, h, hx]

theorem hostTurn_of_read {n : BitVec 8} {rest : List HostAccess} (h : s.held = none) (hh : s.host = .read n :: rest) :
    hostTurn s = State.hostRead { s with host := rest } n := by
  simp [hostTurn, h, hh]

theorem hostTurn_of_write {n : BitVec 8} {w : Word} {rest : List HostAccess} (h : s.held = none)
    (hh : s.host = .write n w :: rest) : hostTurn s = hostWrite n w { s with host := rest } := by
  simp [hostTurn, h, hh]

theorem hostWrite_cmd_of_executing (w : Word) (hx : s.phase = .executing) :
    hostWrite 0 w s = { s with held := some w } := by
  simp [hostWrite, hx]

theorem hostWrite_cmd_of_ready (w : Word) (hx : s.phase ≠ .executing) : hostWrite 0 w s = onCmdWord w s := by
  simp [hostWrite, hx]

/-- Only CMD takes writes (R25). -/
theorem hostWrite_of_ne {n : BitVec 8} (w : Word) (hn : n ≠ 0) : hostWrite n w s = s := if_neg hn

theorem onCmdWord_of_halted (w : Word) (h : s.phase = .halted) : onCmdWord w s = s := if_pos h

end turns

/-- A command that changes a colour is SETFG or SETFGBG (R24). -/
theorem exec_colours {i : Instr} {s t : State} (h : exec i s = .next t) :
    (t.fg = s.fg ∧ t.bg = s.bg) ∨ (∃ fg, i = .setfg fg) ∨ ∃ fg bg, i = .setfgbg fg bg := by
  rcases exec_cases h with ⟨_, rfl⟩ | ⟨fg, hi, _⟩ | ⟨fg, bg, hi, _⟩ | ⟨_, _, _, rfl⟩ | ⟨_, _, rfl⟩
  · exact .inl ⟨rfl, rfl⟩
  · exact .inr (.inl ⟨fg, hi⟩)
  · exact .inr (.inr ⟨fg, bg, hi⟩)
  · exact .inl ⟨rfl, rfl⟩
  · exact .inl ⟨rfl, rfl⟩

/-- SETFG, SETFGBG and GETPIXEL leave the framebuffer alone (R21). -/
theorem exec_fb_of_op {i : Instr} {s t : State} (h : exec i s = .next t)
    (ho : i.op = .setfg ∨ i.op = .setfgbg ∨ i.op = .getpixel) : t.fb = s.fb := by
  cases i
  case setfg | setfgbg | getpixel => cases h; rfl
  all_goals simp [Instr.op] at ho

/-- A command leaves the draw of the unlisted framebuffer bytes alone: only reset draws anew. -/
theorem exec_fbDraw {i : Instr} {s t : State} (h : exec i s = .next t) : t.fbDraw = s.fbDraw := by
  rw [exec_frame h]

/-- No `Plot` lands on a padding bit (R53). -/
theorem not_paddingBit_of_mapPixel {c : Config} {x y : Int} {i b : Nat} (h : mapPixel c x y = some (i, b)) :
    ¬ PaddingBit c i b := by
  obtain ⟨hin, hbit⟩ := mapPixel_eq_some_iff.mp h
  obtain ⟨_, hcol, _, hrow⟩ := native_of_inBounds hin
  obtain ⟨rfl, rfl⟩ := Prod.mk.inj hbit
  rintro ⟨_, _, hpad⟩
  have hcol' : (nativeCol c x y).toNat < nw c := by omega
  rw [Nat.add_mul_div_right _ _ (by omega), Nat.div_eq_of_lt hcol'] at hpad
  omega

/-- A padding bit that a command changes was cleared by CLEAR (R53). -/
theorem exec_paddingBit {i : Instr} {s t : State} (h : exec i s = .next t) {j b : Nat} (hpad : PaddingBit s.cfg j b)
    (hne : t.fbBit j b ≠ s.fbBit j b) : i = .clear ∧ t.fbBit j b = false := by
  rcases exec_cases h with ⟨hi, rfl⟩ | ⟨_, _, rfl⟩ | ⟨_, _, _, rfl⟩ | ⟨_, _, _, rfl⟩ | ⟨_, ps, rfl⟩
  · refine ⟨hi, ?_⟩
    simp [State.fbBit, fbByte_setFb, lookup_zeros hpad.1]
  · exact absurd rfl hne
  · exact absurd rfl hne
  · exact absurd rfl hne
  · exact absurd (plotAll_fbBit_of_not_hit s ps j b fun p _ hm => not_paddingBit_of_mapPixel hm hpad) hne

/-! ### The words of the register space -/

/-- The fields of STATUS stand at the bits of R27, and the reserved bits are 0. -/
theorem statusWord_fields (f : Status) :
    (statusWord f).getLsbD 0 = f.busy ∧ (statusWord f).getLsbD 1 = f.pend ∧ (statusWord f).getLsbD 2 = f.err ∧
      (statusWord f).getLsbD 3 = false ∧ (statusWord f).extractLsb' 4 4 = f.errCode ∧
      (statusWord f).extractLsb' 8 24 = 0 := by
  obtain ⟨busy, pend, err, code⟩ := f
  cases busy <;> cases pend <;> cases err <;> revert code <;> decide

theorem statusWord_clear : statusWord Status.clear = 0 := by decide

/-- The three error codes of R190. -/
theorem errCode_cases (e : CmdErr) : e.code = 1 ∨ e.code = 2 ∨ e.code = 3 := by cases e <;> decide

/-- The fields of COLOR stand at the bits of R30, and the reserved bits are 0. -/
theorem colorWord_fields (fg : Colour) (bg : Option Colour) :
    (colorWord fg bg).getLsbD 0 = fg ∧ (colorWord fg bg).getLsbD 1 = bg.isSome ∧
      (colorWord fg bg).getLsbD 2 = bg.getD false ∧ (colorWord fg bg).extractLsb' 3 29 = 0 := by
  revert fg bg
  decide

/-- CFG_DIM is NW and, 16 bits up, NH (R25). -/
theorem cfgDimWord_toNat (c : Config) : (cfgDimWord c).toNat = c.nw.val + 65536 * c.nh.val := by
  have hw : c.nw.val < 2 ^ 16 := by have := c.nw.pred.isLt; unfold Dim.val; omega
  have hh : c.nh.val < 2 ^ 16 := by have := c.nh.pred.isLt; unfold Dim.val; omega
  have hshift : c.nh.val <<< 16 < 2 ^ 32 := by rw [Nat.shiftLeft_eq]; omega
  simp only [cfgDimWord, BitVec.toNat_or, BitVec.toNat_shiftLeft, BitVec.toNat_ofNat]
  rw [Nat.mod_eq_of_lt (by omega : c.nw.val < 2 ^ 32), Nat.mod_eq_of_lt (by omega : c.nh.val < 2 ^ 32),
    Nat.mod_eq_of_lt hshift, Nat.or_comm, ← Nat.shiftLeft_add_eq_or_of_lt hw, Nat.shiftLeft_eq]
  omega

/-- CFG_MODE is ROT and, 2 bits up, READ_MAP (R25). -/
theorem cfgModeWord_toNat (c : Config) : (cfgModeWord c).toNat = c.rot.code + 4 * c.readMap.code := by
  unfold cfgModeWord
  cases c.rot <;> cases c.readMap <;> decide

theorem readReg_of_reserved (s : State) {n : BitVec 8} (h : 7 ≤ n.toNat) : s.readReg n = 0 := by
  unfold State.readReg
  split
  case h_7 => rfl
  all_goals omega

/-! ### The statements -/

/-- Settles O1: the reset turn is `hardReset`. -/
theorem resetTurnSetsResetValues : Obligations.ResetTurnSetsResetValues := by
  intro s rest hturns
  have hreset : (nextTurn s).1 = .reset := by simp [nextTurn, hturns]
  refine ⟨_, step_of_reset hreset, rfl, rfl, rfl, statusWord_clear, rfl, rfl, rfl, fun i => ?_, rfl, ?_, ?_, ?_, ?_⟩
  · simp [State.fbByte, lookup]
  · simp
  · simp
  · simp [State.readReg]
  · simp [State.readReg]

/-- Settles O7: the invariant gives the table, and each agent's turn its transitions. -/
theorem phaseTableAndTransitions : Obligations.PhaseTableAndTransitions := by
  intro s t hs h
  have hhalted (e : CmdErr) : statusWord (statusHalted e) &&& 0xF = 4 := by cases e <;> decide
  have htrans := step_phase h
  rcases phaseOk_iff.mp hs.phaseOk with ⟨hp, hk, hst⟩ | ⟨hp, hk, hst⟩ | ⟨hp, _, hst⟩ | ⟨hp, hk, e, hst⟩
  · refine ⟨fun _ => ⟨by simp [State.pktN, hk], hst ▸ statusWord_clear⟩, ?_, ?_, ?_, htrans⟩ <;> simp [hp]
  · obtain ⟨hd, ws, _, heq, _⟩ := partialPacket_iff.mp hk
    refine ⟨?_, fun _ => ⟨by simp [State.pktN, heq], by rw [hst]; decide⟩, ?_, ?_, htrans⟩ <;> simp [hp]
  · refine ⟨?_, ?_, fun _ => by rw [hst]; decide, ?_, htrans⟩ <;> simp [hp]
  · refine ⟨?_, ?_, ?_, fun _ => ⟨by simp [State.pktN, hk], hst ▸ hhalted e⟩, htrans⟩ <;> simp [hp]

/-- Settles O8: of what a step can do to the engine only reset and a colour command touch FG or BG. -/
theorem coloursKeptUntilSet : Obligations.ColoursKeptUntilSet := by
  intro s t h hne
  have kept (hfg : t.fg = s.fg) (hbg : t.bg = s.bg) : False := hne.elim (· hfg) (· hbg)
  rcases step_engine_cases h with ⟨i, u, hi, hu, rfl⟩ | ⟨_, rfl⟩ | ⟨hturn, _⟩ | hsame
  · rcases exec_colours hu with ⟨hfg, hbg⟩ | hset
    · exact (kept (by simpa using hfg) (by simpa using hbg)).elim
    · exact .inr ⟨i, hi, hset⟩
  · exact (kept (by simp) (by simp)).elim
  · exact .inl hturn
  · exact (kept hsame.fg hsame.bg).elim

/-- Settles O9: of what a step can do to the engine only reset and a command that runs touch RESULT or FB. -/
theorem resultAndFramebufferWriters : Obligations.ResultAndFramebufferWriters := by
  intro s t h
  rcases step_engine_cases h with ⟨c, u, hc, hu, rfl⟩ | ⟨_, rfl⟩ | ⟨hturn, _⟩ | hsame
  · constructor
    · intro hne
      rcases exec_result hu with hr | ⟨hget, _⟩
      · exact absurd (by simpa using hr) hne
      · exact .inr ⟨c, hc, hget⟩
    · intro i b hne
      have hne : u.fbBit i b ≠ (nextTurn s).2.fbBit i b := by
        rwa [fbBit_congr (nextTurn_fb s) (nextTurn_fbDraw s)]
      have hop : ¬ (c.op = .setfg ∨ c.op = .setfgbg ∨ c.op = .getpixel) := fun ho =>
        hne (fbBit_congr (exec_fb_of_op hu ho) (exec_fbDraw hu) i b)
      rw [not_or, not_or] at hop
      obtain ⟨hfg, hfgbg, hget⟩ := hop
      exact .inr ⟨c, hc, hfg, hfgbg, hget, fun hpad => exec_paddingBit hu (by simpa using hpad) hne⟩
  · exact ⟨absurd (by simp), fun i b => absurd (fbBit_congr (by simp) (by simp) i b)⟩
  · exact ⟨fun _ => .inl hturn, fun _ _ _ => .inl hturn⟩
  · exact ⟨absurd hsame.result, fun i b => absurd (fbBit_congr hsame.fb hsame.fbDraw i b)⟩

/-- Settles O19: the words of the map, and the two turns in which a host reads. -/
theorem registerMap : Obligations.RegisterMap := by
  intro s n w
  refine ⟨rfl, rfl, rfl, rfl, cfgDimWord_toNat s.cfg, cfgModeWord_toNat s.cfg, rfl, readReg_of_reserved s,
    hostWrite_of_ne w, sameEngine_hostRead s n, rfl, fun hturn => ?_, fun rest hturn hheld hhost => ?_⟩
  · exact ⟨_, step_of_observer hturn, (sameEngine_nextTurn s).trans (sameEngine_hostRead _ n), by simp, by simp, by simp⟩
  · have hread := hostTurn_of_read (s := (nextTurn s).2) (by simpa using hheld) (by simpa using hhost)
    refine ⟨_, (step_of_host hturn).trans (congrArg _ hread), ?_, by simpa using hheld, rfl, ?_⟩
    · exact (sameEngine_nextTurn s).trans ⟨rfl, rfl, rfl, rfl, rfl, rfl, rfl, rfl, rfl, rfl⟩
    · rw [hostRead_regAnswer, ← nextTurn_readReg s n]; rfl

/-- Settles O20: the fields of the word, with the value that R32's table gives STATUS in each phase. -/
theorem statusFields : Obligations.StatusFields := by
  intro s hs
  obtain ⟨hbusy, hpend, herr, hres, hcode, hhigh⟩ := statusWord_fields s.status
  have hread : s.readReg 1 = statusWord s.status := rfl
  rw [hread, hbusy, hpend, herr, hres, hcode, hhigh]
  rcases phaseOk_iff.mp hs.phaseOk with ⟨hp, _, hst⟩ | ⟨hp, _, hst⟩ | ⟨hp, _, hst⟩ | ⟨hp, _, e, hst⟩ <;> rw [hp, hst]
  · simp [Status.clear]
  · simp [statusReceiving]
  · simp [statusExecuting]
  · simpa [statusHalted] using errCode_cases e

/-- Settles O21: the fields of the word that register 6 is. -/
theorem colorRegisterFields : Obligations.ColorRegisterFields := by
  refine ⟨fun s => ?_, by decide⟩
  have hread : s.readReg 6 = colorWord s.fg s.bg := rfl
  obtain ⟨hfg, hen, hbg, hhigh⟩ := colorWord_fields s.fg s.bg
  rw [hread, hfg, hen, hbg, hhigh]
  refine ⟨rfl, Option.isSome_iff_ne_none, fun c hc => ?_, fun hc => ?_, rfl⟩ <;> rw [hc] <;> rfl

/-- Settles O23: each clause is one case of the host's turn. -/
theorem cmdWritesAreHeldWhileBusy : Obligations.CmdWritesAreHeldWhileBusy := by
  intro s w rest
  refine ⟨fun hheld hhost hx => ?_, fun hheld hhost hx => ?_, hostTurn_of_held_executing, hostTurn_of_held_ready,
    onCmdWord_of_halted w⟩
  · exact (hostTurn_of_write hheld hhost).trans (hostWrite_cmd_of_executing w hx)
  · exact (hostTurn_of_write hheld hhost).trans (hostWrite_cmd_of_ready w hx)

end Sys2Proof.Machine
end

section
/-!
PROOFS. The memory family (20_memory.md): the Coordinate Mapper and the mapping GETPIXEL reads through, source memory,
the read port, words on a byte-wide bus, and the packet protocol as one command.
-/
namespace Sys2Proof.Machine

/-! ### The Coordinate Mapper -/

/-- Two native pixels share no bit (R51, R52). -/
theorem nativeBit_inj {c : Config} {col row col' row' : Nat} (hc : col < nw c) (hc' : col' < nw c)
    (h : nativeBit c col row = nativeBit c col' row') : col = col' ∧ row = row' := by
  obtain ⟨hbyte, hbit⟩ := Prod.mk.inj h
  have hcol : col = col' := by simpa [Nat.mod_eq_of_lt, hc, hc'] using congrArg (· % nw c) hbyte
  have hgroup : row / 8 = row' / 8 := Nat.eq_of_mul_eq_mul_right (by omega : 0 < nw c) (by omega)
  omega

/-- A framebuffer bit that is no padding is a native pixel's (R53). -/
theorem nativeBit_of_not_paddingBit {c : Config} {i b : Nat} (hi : i < fbBytes c) (hb : b < 8)
    (hpad : ¬ PaddingBit c i b) :
    i % nw c < nw c ∧ 8 * (i / nw c) + b < nh c ∧ nativeBit c (i % nw c) (8 * (i / nw c) + b) = (i, b) := by
  have hw : 0 < nw c := Nat.succ_pos _
  refine ⟨Nat.mod_lt i hw, Nat.lt_of_not_le fun h => hpad ⟨hi, hb, h⟩, ?_⟩
  have hgroup : (8 * (i / nw c) + b) / 8 = i / nw c := by omega
  have hbit : (8 * (i / nw c) + b) % 8 = b := by omega
  rw [nativeBit, hgroup, hbit, Nat.mul_comm, Nat.mod_add_div]

/-- The four formulas of R55 take different logical points to different native ones. -/
theorem native_inj {c : Config} {x y x' y' : Int} (hcol : nativeCol c x y = nativeCol c x' y')
    (hrow : nativeRow c x y = nativeRow c x' y') : x = x' ∧ y = y' := by
  obtain ⟨w, h, rot, m⟩ := c
  cases rot <;> simp only [nativeCol, nativeRow] at hcol hrow <;> omega

/-- The logical point of a native pixel: the four formulas of R55 solved for it. -/
theorem exists_logical_of_native {c : Config} {col row : Nat} (hc : col < nw c) (hr : row < nh c) :
    ∃ x y, inBounds c x y = true ∧ nativeCol c x y = col ∧ nativeRow c x y = row := by
  simp only [inBounds_iff]
  obtain ⟨w, h, rot, m⟩ := c
  cases rot <;> simp only [logicalW, logicalH, nativeCol, nativeRow]
  case none => exact ⟨col, row, by omega⟩
  case ccw90 => exact ⟨row, nw ⟨w, h, .ccw90, m⟩ - col - 1, by omega⟩
  case rot180 => exact ⟨nw ⟨w, h, .rot180, m⟩ - col - 1, nh ⟨w, h, .rot180, m⟩ - row - 1, by omega⟩
  case cw90 => exact ⟨nh ⟨w, h, .cw90, m⟩ - row - 1, col, by omega⟩

theorem mapPixel_of_inBounds {c : Config} {x y : Int} (h : inBounds c x y = true) :
    mapPixel c x y = some (nativeBit c (nativeCol c x y).toNat (nativeRow c x y).toNat) := if_pos h

theorem mapPixel_of_not_inBounds {c : Config} {x y : Int} (h : inBounds c x y = false) : mapPixel c x y = none := by
  simp [mapPixel, h]

/-- `Map` is valid exactly on the in-bounds points (R55). -/
theorem mapPixel_isSome (c : Config) (x y : Int) : (mapPixel c x y).isSome = inBounds c x y := by
  cases h : inBounds c x y
  · rw [mapPixel_of_not_inBounds h]; rfl
  · rw [mapPixel_of_inBounds h]; rfl

/-- Settles O26: the formulas of R55 are invertible, and the native pixels are the bits that are no padding. -/
theorem mapIsBijection : Obligations.MapIsBijection := by
  intro c
  refine ⟨?_, ?_, fun x y => ?_, fun x y col row hx hxw hy hyh hnat => ?_, fun x y i b h => ?_,
    fun x y x' y' p h h' => ?_, fun i b hi hb hpad => ?_⟩
  · rintro (h | h) <;> simp [logicalW, logicalH, h]
  · rintro (h | h) <;> simp [logicalW, logicalH, h]
  · rw [mapPixel_isSome, inBounds_iff]
  · obtain ⟨hcol, hrow⟩ : nativeCol c x y = col ∧ nativeRow c x y = row := by
      rcases hnat with ⟨hr, hcol, hrow⟩ | ⟨hr, hcol, hrow⟩ | ⟨hr, hcol, hrow⟩ | ⟨hr, hcol, hrow⟩ <;>
        simp [nativeCol, nativeRow, hr, hcol, hrow]
    rw [mapPixel_of_inBounds (inBounds_iff.mpr ⟨hx, hxw, hy, hyh⟩), hcol, hrow]
    rfl
  · obtain ⟨hi, hb⟩ := mapPixel_lt h
    exact ⟨hi, hb, not_paddingBit_of_mapPixel h⟩
  · obtain ⟨hin, hbit⟩ := mapPixel_eq_some_iff.mp h
    obtain ⟨hin', hbit'⟩ := mapPixel_eq_some_iff.mp h'
    have hn := native_of_inBounds hin
    have hn' := native_of_inBounds hin'
    obtain ⟨hcol, hrow⟩ := nativeBit_inj (by omega) (by omega) (hbit.trans hbit'.symm)
    exact native_inj (c := c) (by omega) (by omega)
  · obtain ⟨hcol, hrow, hbit⟩ := nativeBit_of_not_paddingBit hi hb hpad
    obtain ⟨x, y, hin, hx, hy⟩ := exists_logical_of_native hcol hrow
    exact ⟨x, y, mapPixel_eq_some_iff.mpr ⟨hin, by rw [hx, hy]; exact hbit⟩⟩

/-- `MapRead`: INVALID out of bounds; `Map`'s bit, the native pixel of the point's own coordinates, or UNMAPPED in
bounds (R71). -/
theorem mapRead_cases (c : Config) (x y : Int) :
    (inBounds c x y = false ∧ mapRead c x y = .invalid) ∨
    (inBounds c x y = true ∧ c.readMap = .rotationAware ∧
      ∃ i b, mapPixel c x y = some (i, b) ∧ mapRead c x y = .mapped i b) ∨
    (inBounds c x y = true ∧ c.readMap = .nativeAlways ∧ x < nw c ∧ y < nh c ∧
      mapRead c x y = .mapped (x.toNat + y.toNat / 8 * nw c) (y.toNat % 8)) ∨
    (inBounds c x y = true ∧ c.readMap = .nativeAlways ∧ ((nw c : Int) ≤ x ∨ (nh c : Int) ≤ y) ∧
      mapRead c x y = .unmapped) := by
  cases hin : inBounds c x y with
  | false => exact .inl ⟨rfl, by simp [mapRead, hin]⟩
  | true =>
    right
    cases hm : c.readMap with
    | rotationAware =>
      obtain ⟨⟨i, b⟩, hmap⟩ := Option.isSome_iff_exists.mp ((mapPixel_isSome c x y).trans hin)
      exact .inl ⟨rfl, rfl, i, b, hmap, by simp [mapRead, hin, hm, hmap]⟩
    | nativeAlways =>
      right
      by_cases h : x < nw c ∧ y < nh c
      · obtain ⟨hx, hy⟩ := h
        exact .inl ⟨rfl, rfl, hx, hy, by simp [mapRead, hin, hm, hx, hy, nativeBit]⟩
      · exact .inr ⟨rfl, rfl, by omega, by simp [mapRead, hin, hm, h]⟩

/-- Unrotated, `Map` is the native pixel of the point's own coordinates (R55). -/
theorem mapPixel_of_unrotated {c : Config} {x y : Int} (hr : c.rot = .none) (hin : inBounds c x y = true) :
    mapPixel c x y = some (x.toNat + y.toNat / 8 * nw c, y.toNat % 8) := by
  simp [mapPixel, hin, nativeCol, nativeRow, nativeBit, hr]

/-- An in-bounds point has no native pixel of its own coordinates only where a quarter turn exchanges unequal sides. -/
theorem rotated_of_beyond_native {c : Config} {x y : Int} (hin : inBounds c x y = true)
    (h : (nw c : Int) ≤ x ∨ (nh c : Int) ≤ y) : (c.rot = .ccw90 ∨ c.rot = .cw90) ∧ nw c ≠ nh c := by
  obtain ⟨_, hx, _, hy⟩ := inBounds_iff.mp hin
  cases hr : c.rot <;> simp only [logicalW, logicalH, hr] at hx hy
  case none | rot180 => omega
  case ccw90 => exact ⟨.inl rfl, by omega⟩
  case cw90 => exact ⟨.inr rfl, by omega⟩

/-- Settles O28: each clause read off the cases of `MapRead`. -/
theorem mapReadTargets : Obligations.MapReadTargets := by
  intro c x y
  rcases mapRead_cases c x y with ⟨hin, h⟩ | ⟨hin, hm, i, b, hmap, h⟩ | ⟨hin, hm, hx, hy, h⟩ | ⟨hin, hm, hb, h⟩
  · simp [h, hin, mapPixel_of_not_inBounds hin]
  · simp [h, hin, hm, hmap]
  · have hbeyond : ¬ ((nw c : Int) ≤ x ∨ (nh c : Int) ≤ y) := by omega
    refine ⟨by simp [h, hin], fun hr i b => ?_, fun _ _ _ _ => h, by simp [h, hbeyond], by simp [h]⟩
    rw [h, mapPixel_of_unrotated (hr.resolve_left (by simp [hm])) hin]
    simp
  · obtain ⟨hrot, hne⟩ := rotated_of_beyond_native hin hb
    refine ⟨by simp [h, hin], fun hr => ?_, fun _ _ hx hy => ?_, by simp [h, hin, hm, hb], fun _ => ⟨hrot, hne⟩⟩
    · rcases hr with hr | hr
      · simp [hm] at hr
      · simp [hr] at hrot
    · omega

/-- Settles O27: `Map` evaluated at the corners. -/
theorem mapCornersOfReference : Obligations.MapCornersOfReference := by
  intro m
  refine ⟨fun rot => ?_, ?_, ?_, ?_, ?_⟩
  · cases rot <;> exact ⟨rfl, rfl⟩
  all_goals cases m <;> decide

/-! ### Source memory and the read port -/

@[simp] theorem nextTurn_fbByte (s : State) (i : Nat) : (nextTurn s).2.fbByte i = s.fbByte i := by
  simp [State.fbByte]

@[simp] theorem nextTurn_srcByte (s : State) (a : Nat) : (nextTurn s).2.srcByte a = s.srcByte a := by
  simp [State.srcByte]

@[simp] theorem hostTurn_srcMem (s : State) : (hostTurn s).srcMem = s.srcMem := by rw [hostTurn_frame]

@[simp] theorem transportRead_srcMem (s : State) (i : Nat) : (s.transportRead i).srcMem = s.srcMem := by
  rw [transportRead_frame]

theorem exec_srcMem {i : Instr} {s t : State} (h : exec i s = .next t) : t.srcMem = s.srcMem := by rw [exec_frame h]

theorem step_of_source {s : State} {a : Word} {b : Byte} (h : (nextTurn s).1 = .source a b) :
    step s = .next ((nextTurn s).2.writeSource a b) := by
  simp [step, takeTurn, h]

theorem step_of_transport {s : State} {i : Nat} (h : (nextTurn s).1 = .transport i) :
    step s = .next ((nextTurn s).2.transportRead i) := by
  simp [step, takeTurn, h]

/-- A step that changes SrcMem is the outside's (R60). -/
theorem step_srcMem {s t : State} (h : step s = .next t) (hne : t.srcMem ≠ s.srcMem) :
    ∃ a b, (nextTurn s).1 = .source a b := by
  rcases step_cases h with ⟨_, _, hrun⟩ | ⟨_, _, rfl⟩ | ⟨_, rfl⟩ | ⟨_, _, rfl⟩ | ⟨_, _, rfl⟩ | ⟨_, rfl⟩ | ⟨a, b, ht, _⟩
  · obtain ⟨_, u, _, hu, rfl⟩ := runCommand_next hrun
    exact absurd (by simpa using exec_srcMem hu) hne
  · exact absurd (by simp) hne
  · exact absurd (by simp) hne
  · exact absurd (by simp) hne
  · exact absurd (by simp) hne
  · exact absurd (by simp) hne
  · exact ⟨a, b, ht⟩

theorem memRead_of_unmoved {s : State} (h : s.srcMoved = false) (call addr : Nat) :
    s.memRead call addr = s.srcByte (addr % 4294967296) := by simp [State.memRead, h]

theorem memRead_of_moved {s : State} (h : s.srcMoved = true) (call addr : Nat) :
    s.memRead call addr = Config.freeSrcByte s.draws call := by simp [State.memRead, h]

/-- Settles O55: who writes SrcMem, what the outside's write does, and what a read gives. -/
theorem sourceMemoryIsReadOnlyAndWraps : Obligations.SourceMemoryIsReadOnlyAndWraps := by
  refine ⟨fun s t => step_srcMem, fun s a b hturn => ?_, fun s call addr => ⟨fun h => ?_, fun h => ?_⟩⟩
  · refine ⟨_, step_of_source hturn, (sameEngine_nextTurn s).trans (sameEngine_writeSource _ a b), rfl, ?_, ?_⟩
    · simp [srcByte_writeSource]
    · intro a' hne
      simp [srcByte_writeSource, hne]
  · simp [memRead_of_unmoved h]
  · exact memRead_of_moved h call addr

theorem transportRead_portAnswer_of_executing {s : State} (h : s.phase = .executing) (i : Nat) :
    (s.transportRead i).portAnswer = some (Config.freePortByte s.draws) := by simp [State.transportRead, h]

theorem transportRead_portAnswer_of_ready {s : State} (h : s.phase ≠ .executing) (i : Nat) :
    (s.transportRead i).portAnswer = some (s.portByte i) := by simp [State.transportRead, h]

/-- Settles O22: what the transport's turn answers in each phase, and what it leaves alone. -/
theorem readPortServesFramebuffer : Obligations.ReadPortServesFramebuffer := by
  intro s i hturn
  refine ⟨_, step_of_transport hturn, (sameEngine_nextTurn s).trans (sameEngine_transportRead _ i), fun hx => ?_,
    fun hx => ?_, fun r => rfl⟩
  · rw [transportRead_portAnswer_of_ready (by simpa using hx)]
    simp [State.portByte]
  · exact ⟨_, transportRead_portAnswer_of_executing (by simpa using hx) i⟩

/-! ### Words on a byte-wide bus -/

/-- A byte of a word, as a number. -/
theorem extractByte_toNat (w : Word) (k : Nat) : (w.extractLsb' k 8).toNat = w.toNat / 2 ^ k % 256 := by
  simp [Nat.shiftRight_eq_div_pow]

/-- A word is its four bytes. -/
theorem append_bytes (w : Word) :
    w.extractLsb' 24 8 ++ w.extractLsb' 16 8 ++ w.extractLsb' 8 8 ++ w.extractLsb' 0 8 = w := by
  rw [BitVec.extractLsb'_append_extractLsb'_eq_extractLsb' (start₁ := 16) (start₂ := 24) rfl,
    BitVec.extractLsb'_append_extractLsb'_eq_extractLsb' (start₁ := 8) (start₂ := 16) rfl,
    BitVec.extractLsb'_append_extractLsb'_eq_extractLsb' (start₁ := 0) (start₂ := 8) rfl]
  exact BitVec.extractLsb'_eq_self

/-- Settles O25: the four bytes as numbers, and the word put together from them. -/
theorem wordsTravelLittleEndian : Obligations.WordsTravelLittleEndian := by
  intro w bs
  constructor
  · have hlast : w.toNat / 16777216 % 256 = w.toNat / 16777216 := Nat.mod_eq_of_lt (by omega)
    simp only [bytesOfWord, List.map_cons, List.map_nil, extractByte_toNat]
    simp [hlast]
  · simp only [bytesOfWord, List.cons_append, List.nil_append, wordsOfBytes]
    rw [append_bytes]

/-! ### The packet protocol -/

theorem headerAccepted : ∀ i : Instr, Laws.HeaderAccepted.Statement i
  | .clear => Laws.HeaderAccepted.clear
  | .setfg fg => Laws.HeaderAccepted.setfg fg
  | .setfgbg fg bg => Laws.HeaderAccepted.setfgbg fg bg
  | .setpixel x y => Laws.HeaderAccepted.setpixel x y
  | .getpixel x y => Laws.HeaderAccepted.getpixel x y
  | .line x0 y0 x1 y1 => Laws.HeaderAccepted.line x0 y0 x1 y1
  | .rect x y w h => Laws.HeaderAccepted.rect x y w h
  | .fillrect x y w h => Laws.HeaderAccepted.fillrect x y w h
  | .roundrect x y w h r => Laws.HeaderAccepted.roundrect x y w h r
  | .fillroundrect x y w h r => Laws.HeaderAccepted.fillroundrect x y w h r
  | .circle x0 y0 r => Laws.HeaderAccepted.circle x0 y0 r
  | .fillcircle x0 y0 r => Laws.HeaderAccepted.fillcircle x0 y0 r
  | .triangle x0 y0 x1 y1 x2 y2 => Laws.HeaderAccepted.triangle x0 y0 x1 y1 x2 y2
  | .filltriangle x0 y0 x1 y1 x2 y2 => Laws.HeaderAccepted.filltriangle x0 y0 x1 y1 x2 y2
  | .blit x y w h addr => Laws.HeaderAccepted.blit x y w h addr
  | .blitx x y w h addr rot flip => Laws.HeaderAccepted.blitx x y w h addr rot flip

/-- A well-formed command is read back from its own words (R81 to R84). -/
theorem build_encode {i : Instr} (h : WellFormed i = true) :
    build i.op (encodeHeader i) ((encodeOperands i).getD 0 0) ((encodeOperands i).getD 1 0)
      ((encodeOperands i).getD 2 0) = i := by
  cases i <;> simp only [WellFormed, Bool.and_eq_true] at h
  case setfg fg =>
    obtain ⟨hfg, _⟩ := header_fields fg fg .r0 .noflip
    exact congrArg Instr.setfg hfg
  case setfgbg fg bg =>
    obtain ⟨_, hfg, hbg, _⟩ := header_fields fg bg .r0 .noflip
    exact congrArg₂ Instr.setfgbg hfg hbg
  case blitx x y w h addr rot flip =>
    obtain ⟨_, _, _, hrot, hflip⟩ := header_fields true true rot flip
    simp [build, Instr.op, encodeHeader, encodeOperands, fieldLo_packPair, fieldHi_packPair, fieldAddr_packAddr, hrot,
      hflip, h]
  all_goals
    simp [build, Instr.op, encodeOperands, fieldLo_packPair, fieldHi_packPair, fieldLo_packRadius, fieldAddr_packAddr,
      h]

/-- The words of a well-formed command are a whole packet, that command's. -/
theorem decode_encode {i : Instr} (h : WellFormed i = true) : decode (encode i) = .ok (i, []) := by
  obtain ⟨hop, hlen, hok⟩ := headerAccepted i
  simp only [encode, decode, hop, takeOperands_of_operandsOk hlen hok, build_encode h]

theorem nextTurn_of_ready {s : State} (ht : s.turns = []) (hx : s.phase ≠ .executing) : nextTurn s = (.host, s) := by
  simp [nextTurn, ht, hx]

theorem nextTurn_of_executing {s : State} (ht : s.turns = []) (hx : s.phase = .executing) :
    nextTurn s = (.engine, s) := by
  simp [nextTurn, ht, hx]

/-- With nobody else acting, the host's write to CMD goes to the packet decoder in one step (R29). -/
theorem step_of_cmd_write {s : State} {w : Word} {rest : List HostAccess} (ht : s.turns = [])
    (hx : s.phase ≠ .executing) (hheld : s.held = none) (hh : s.host = .write 0 w :: rest) :
    step s = .next (onCmdWord w { s with host := rest }) := by
  have hn := nextTurn_of_ready ht hx
  rw [step_of_host (by rw [hn]), hn, hostTurn_of_write hheld hh, hostWrite_cmd_of_ready w (by exact hx)]

/-- With nobody else acting, the command in PKT runs to its finish event in one step (R91). -/
theorem step_of_executing {s u : State} {i : Instr} (ht : s.turns = []) (hx : s.phase = .executing)
    (hf : fetchCommand s = some i) (hu : exec i s = .next u) : step s = .next (finishCommand u) := by
  simp [step, takeTurn, nextTurn_of_executing ht hx, hx, runCommand, hf, hu]

/-- A legal header is accepted by a decoder that waits for one (R90). -/
theorem onCmdWord_header {s : State} {w : Word} {op : Op} (hh : s.phase ≠ .halted) (hp : s.pkt = [])
    (hop : headerOp w = .ok op) : onCmdWord w s = acceptWord (opKinds op) [w] s := by
  simp [onCmdWord, hh, hp, hop]

/-- A legal operand word is accepted in its place (R90). -/
theorem onCmdWord_operand {s : State} {h w : Word} {ws : List Word} {op : Op} {k : OperandKind} (hh : s.phase ≠ .halted)
    (hp : s.pkt = h :: ws) (hop : headerOp h = .ok op) (hk : (opKinds op)[ws.length]? = some k)
    (hw : operandOk k w = true) : onCmdWord w s = acceptWord (opKinds op) (h :: (ws ++ [w])) s := by
  simp [onCmdWord, hh, hp, packetKinds_of_headerOp hop, hk, hw]

theorem acceptWord_of_complete {ks : List OperandKind} {pkt : List Word} (h : pkt.length = 1 + ks.length) (s : State) :
    acceptWord ks pkt s = startCommand { s with pkt := pkt } := if_pos h

theorem acceptWord_of_partial {ks : List OperandKind} {pkt : List Word} (h : pkt.length ≠ 1 + ks.length) (s : State) :
    acceptWord ks pkt s = { s with pkt := pkt, status := statusReceiving, phase := .receiving } := if_neg h

/-- What PKT, STATUS and PHASE were before an accepted word does not show after it. -/
theorem acceptWord_of_receiving (ks : List OperandKind) (pkt pkt' : List Word) (s : State) :
    acceptWord ks pkt' { s with pkt := pkt, status := statusReceiving, phase := .receiving } =
      acceptWord ks pkt' s := by
  unfold acceptWord
  split <;> rfl

/-- With nobody else acting, a packet takes the next legal operand word in one step (R90). -/
theorem step_operand_write {s : State} {h w : Word} {ws : List Word} {op : Op} {k : OperandKind}
    {rest : List HostAccess} (ht : s.turns = []) (hheld : s.held = none) (hh : s.host = .write 0 w :: rest)
    (hop : headerOp h = .ok op) (hk : (opKinds op)[ws.length]? = some k) (hw : operandOk k w = true) :
    step (acceptWord (opKinds op) (h :: ws) s) =
      .next (acceptWord (opKinds op) (h :: (ws ++ [w])) { s with host := rest }) := by
  obtain ⟨hlt, _⟩ := List.getElem?_eq_some_iff.mp hk
  have hpart : (h :: ws).length ≠ 1 + (opKinds op).length := by rw [List.length_cons]; omega
  rw [acceptWord_of_partial hpart, step_of_cmd_write (w := w) (rest := rest),
    onCmdWord_operand (h := h) (ws := ws) (hop := hop) (hk := hk) (hw := hw)]
  · exact congrArg _ (acceptWord_of_receiving _ _ _ { s with host := rest })
  · nofun
  · rfl
  · exact ht
  · nofun
  · exact hheld
  · exact hh

theorem run_succ {s t : State} (h : step s = .next t) (n : Nat) :
    Host.Core.run Sys2Proof.core (n + 1) s = Host.Core.run Sys2Proof.core n t := by
  simp only [Host.Core.run, Host.Check.core_step, h]

/-- The legal word at each place of an operand list. -/
theorem operandOk_of_operandsOk {ks : List OperandKind} {ws vs : List Word} {v : Word}
    (hok : operandsOk ks (ws ++ v :: vs) = true) (hlt : ws.length < ks.length) :
    ∃ k, ks[ws.length]? = some k ∧ operandOk k v = true := by
  induction ks generalizing ws with
  | nil => simp at hlt
  | cons k ks ih =>
    cases ws with
    | nil =>
      simp only [operandsOk, List.nil_append, List.zip_cons_cons, List.all_cons, Bool.and_eq_true] at hok
      obtain ⟨hv, _⟩ := hok
      exact ⟨k, rfl, hv⟩
    | cons w ws =>
      simp only [operandsOk, List.cons_append, List.zip_cons_cons, List.all_cons, Bool.and_eq_true] at hok
      obtain ⟨_, hrest⟩ := hok
      simpa using ih hrest (by simpa using hlt)

/-- The host writes the operand words `vs` that a packet still waits for, one step each, and the command starts
(R65, R90). -/
theorem run_operand_writes {s : State} {rest : List HostAccess} {h : Word} {op : Op} (ht : s.turns = [])
    (hheld : s.held = none) (hop : headerOp h = .ok op) (vs ws : List Word)
    (hlen : (ws ++ vs).length = opK op) (hok : operandsOk (opKinds op) (ws ++ vs) = true) (n : Nat) :
    Host.Core.run Sys2Proof.core (n + vs.length)
        (acceptWord (opKinds op) (h :: ws) { s with host := cmdWrites vs ++ rest }) =
      Host.Core.run Sys2Proof.core n (startCommand { s with host := rest, pkt := h :: (ws ++ vs) }) := by
  induction vs generalizing ws with
  | nil =>
    rw [List.append_nil] at hlen ⊢
    rw [acceptWord_of_complete (by simpa [opK, Nat.add_comm] using hlen)]
    rfl
  | cons v vs ih =>
    have hlt : ws.length < (opKinds op).length := by
      rw [List.length_append, List.length_cons, opK] at hlen
      omega
    obtain ⟨k, hk, hv⟩ := operandOk_of_operandsOk hok hlt
    have hstep := step_operand_write (s := { s with host := cmdWrites (v :: vs) ++ rest }) ht hheld rfl hop hk hv
    rw [List.append_cons] at hlen hok ⊢
    exact (run_succ hstep _).trans (ih (ws ++ [v]) hlen hok)

/-- Settles O18: a step for the header, one for each operand word, and the command's own. -/
theorem packetRunsAsOneCommand : Obligations.PacketRunsAsOneCommand := by
  intro i s u rest hwf hphase hpkt hheld hturns hhost hu
  obtain ⟨hop, hlen, hok⟩ := headerAccepted i
  have hheader : step s = .next (acceptWord (opKinds i.op) [encodeHeader i]
      { s with host := cmdWrites (encodeOperands i) ++ rest }) := by
    rw [step_of_cmd_write hturns (by simp [hphase]) hheld hhost]
    exact congrArg _ (onCmdWord_header (by simp [hphase]) hpkt hop)
  have hcommand : step (startCommand { s with host := rest, pkt := encode i }) = .next (finishCommand u) :=
    step_of_executing hturns rfl (by simp [fetchCommand, decode_encode hwf]) hu
  calc Host.Core.run Sys2Proof.core ((encode i).length + 1) s
    _ = Host.Core.run Sys2Proof.core (1 + (encodeOperands i).length + 1) s := by
      rw [encode, List.length_cons, Nat.add_comm 1]
    _ = _ := run_succ hheader _
    _ = _ := run_operand_writes hturns hheld hop _ [] hlen hok 1
    _ = _ := run_succ hcommand 0

end Sys2Proof.Machine
end

section
/-!
PROOFS. The encoding family (30_encoding.md): match and mask of a header (R87), decoding and encoding as inverses
(R80 to R86), the malformed words (R88) and the words of a packet at the decoder (R90, R91).
-/
namespace Sys2Proof.Machine

/-! ### Headers: the opcode map, match and mask -/

theorem opOfCode_eq_some_iff {b : Byte} {op : Op} : opOfCode b = some op ↔ b.toNat = (opMatch op).toNat := by
  constructor
  · unfold opOfCode
    split <;> intro h <;> cases h
    all_goals assumption
  · cases op <;> intro h <;> simp [opOfCode, opMatch, h]

theorem toNat_opField (h : Word) : (opField h).toNat = (h &&& 0xFF).toNat := by
  simp only [opField, BitVec.extractLsb'_toNat, BitVec.toNat_and]
  exact (Nat.and_two_pow_sub_one_eq_mod h.toNat 8).symm

/-- The opcode field of a header names a command exactly when it is the MATCH of its row (R86, R87). -/
theorem opOfCode_opField_iff {h : Word} {op : Op} : opOfCode (opField h) = some op ↔ h &&& 0xFF = opMatch op := by
  rw [opOfCode_eq_some_iff, toNat_opField, BitVec.toNat_inj]

/-- Every MASK fixes the opcode field, and no MATCH has a bit outside it (R87). -/
theorem opMask_and_opcode (op : Op) : opMask op &&& 0xFF = 0xFF ∧ opMatch op &&& 0xFF = opMatch op := by
  cases op <;> decide

/-- A header that meets match and mask has the opcode of its row (R87). -/
theorem opcode_of_matches {h : Word} {op : Op} (hm : h &&& opMask op = opMatch op) : h &&& 0xFF = opMatch op := by
  obtain ⟨hmask, hmatch⟩ := opMask_and_opcode op
  calc h &&& 0xFF
    _ = h &&& (opMask op &&& 0xFF) := by rw [hmask]
    _ = opMatch op &&& 0xFF := by rw [← BitVec.and_assoc, hm]
    _ = opMatch op := hmatch

/-- The header check of R88 is match and mask of R87. -/
theorem headerOp_eq_ok_iff {h : Word} {op : Op} : headerOp h = .ok op ↔ h &&& opMask op = opMatch op := by
  constructor
  · unfold headerOp
    intro ho
    split at ho
    · cases ho
    · split at ho
      · next hm => cases ho; exact hm
      · cases ho
  · intro hm
    simp [headerOp, opOfCode_opField_iff.mpr (opcode_of_matches hm), hm]

/-- An opcode byte that is no command's is the first error of R190, whatever the reserved bits (R194). -/
theorem headerOp_of_no_opcode {h : Word} (hno : ∀ op, h &&& 0xFF ≠ opMatch op) :
    headerOp h = .error .illegalOpcode := by
  have hnone : opOfCode (opField h) = none :=
    Option.eq_none_iff_forall_ne_some.mpr fun op hop => hno op (opOfCode_opField_iff.mp hop)
  simp [headerOp, hnone]

/-- A command's opcode with a reserved bit set is the second error of R190. -/
theorem headerOp_of_reserved_bit {h : Word} {op : Op} (hop : h &&& 0xFF = opMatch op)
    (hm : h &&& opMask op ≠ opMatch op) : headerOp h = .error .reservedHeader := by
  simp [headerOp, opOfCode_opField_iff.mpr hop, hm]

/-- The rows of R87's table are the decoder's MATCH and MASK of each command. -/
theorem mem_headerTable_iff {row : Op × Word × Word} :
    row ∈ headerTable ↔ row = (row.1, opMatch row.1, opMask row.1) := by
  constructor
  · have hrows : ∀ r ∈ headerTable, r = (r.1, opMatch r.1, opMask r.1) := by decide
    exact hrows row
  · intro h
    rw [h]
    cases row.1 <;> decide

/-- Settles O12: the table's rows are the decoder's own, and the header check is their match and mask. -/
theorem headerSelectsByMatchAndMask : Obligations.HeaderSelectsByMatchAndMask := by
  intro h op
  rw [headerOp_eq_ok_iff]
  constructor
  · exact fun hm => ⟨(op, opMatch op, opMask op), mem_headerTable_iff.mpr rfl, rfl, hm⟩
  · rintro ⟨row, hrow, rfl, hm⟩
    rw [mem_headerTable_iff.mp hrow] at hm
    exact hm

/-! ### Header words put together again from their fields -/

/-- A word is what a mask keeps of it and what the mask drops. -/
theorem and_or_and_not (h m : Word) : (h &&& m) ||| (h &&& ~~~m) = h := by
  rw [← BitVec.and_or_distrib_left, BitVec.or_not_self, BitVec.and_allOnes]

theorem colourBit_getLsbD (h : Word) (i : Nat) : colourBit (h.getLsbD i) i = h &&& BitVec.twoPow 32 i := by
  rw [BitVec.and_twoPow]
  rfl

theorem rotBits_headerRot (h : Word) :
    rotBits (headerRot h) = colourBit (h.getLsbD 8) 8 ||| colourBit (h.getLsbD 9) 9 := by
  unfold headerRot
  cases h.getLsbD 9 <;> cases h.getLsbD 8 <;> rfl

theorem flipBits_headerFlip (h : Word) :
    flipBits (headerFlip h) = colourBit (h.getLsbD 10) 10 ||| colourBit (h.getLsbD 11) 11 := by
  unfold headerFlip
  cases h.getLsbD 11 <;> cases h.getLsbD 10 <;> rfl

/-- The header fields of a command hold exactly the bits its MASK does not fix (R81, R87). -/
theorem encodeHeader_build_eq (op : Op) (h w1 w2 w3 : Word) :
    encodeHeader (build op h w1 w2 w3) = opMatch op ||| (h &&& ~~~(opMask op)) := by
  cases op
  case setfg => exact congrArg (opMatch .setfg ||| ·) (colourBit_getLsbD h 8)
  case setfgbg =>
    simp only [build, encodeHeader, headerFg, headerBg, colourBit_getLsbD, BitVec.or_assoc,
      ← BitVec.and_or_distrib_left]
    rfl
  case blitx =>
    simp only [build, encodeHeader, rotBits_headerRot, flipBits_headerFlip, colourBit_getLsbD, BitVec.or_assoc,
      ← BitVec.and_or_distrib_left]
    rfl
  all_goals simp [build, encodeHeader, opMask]

/-- A legal header is the header of the command it gives. -/
theorem encodeHeader_build {h : Word} {op : Op} (hop : headerOp h = .ok op) (w1 w2 w3 : Word) :
    encodeHeader (build op h w1 w2 w3) = h := by
  rw [encodeHeader_build_eq, ← headerOp_eq_ok_iff.mp hop, and_or_and_not]

/-! ### Packets -/

/-- The operand words taken are the first ones, as many as asked for, each legal in its place (R80, R88). -/
theorem takeOperands_eq_ok_iff {ks : List OperandKind} {ws ops rest : List Word} :
    takeOperands ks ws = .ok (ops, rest) ↔
      ws = ops ++ rest ∧ ops.length = ks.length ∧ operandsOk ks ops = true := by
  induction ks generalizing ws ops with
  | nil =>
    constructor
    · intro h; cases h; exact ⟨rfl, rfl, rfl⟩
    · rintro ⟨rfl, hlen, -⟩
      rw [List.length_eq_zero_iff.mp hlen]
      rfl
  | cons k ks ih =>
    constructor
    · intro h
      cases ws with
      | nil => cases h
      | cons w ws =>
        unfold takeOperands at h
        split at h
        · next hw =>
          split at h
          · next ops' rest' ht =>
            cases h
            obtain ⟨rfl, hlen, hok⟩ := ih.mp ht
            exact ⟨rfl, congrArg Nat.succ hlen, by simpa [operandsOk, hw] using hok⟩
          · cases h
        · cases h
    · rintro ⟨rfl, hlen, hok⟩
      cases ops with
      | nil => cases hlen
      | cons w ops =>
        simp only [operandsOk, List.zip_cons_cons, List.all_cons, Bool.and_eq_true] at hok
        obtain ⟨hw, hok⟩ := hok
        simp [takeOperands, hw, ih.mpr ⟨rfl, Nat.succ.inj hlen, hok⟩]

/-- A packet is a legal header and its legal operand words: what decodes, and to what (R80 to R88). -/
theorem decode_eq_ok_iff {ws rest : List Word} {i : Instr} :
    decode ws = .ok (i, rest) ↔
      ∃ h op ops, ws = h :: (ops ++ rest) ∧ headerOp h = .ok op ∧ ops.length = opK op ∧
        operandsOk (opKinds op) ops = true ∧ i = build op h (ops.getD 0 0) (ops.getD 1 0) (ops.getD 2 0) := by
  constructor
  · intro hd
    cases ws with
    | nil => cases hd
    | cons h ws =>
      cases hop : headerOp h with
      | error e => simp [decode, hop] at hd
      | ok op =>
        cases ht : takeOperands (opKinds op) ws with
        | error e => simp [decode, hop, ht] at hd
        | ok taken =>
          simp only [decode, hop, ht] at hd
          cases hd
          obtain ⟨rfl, hlen, hok⟩ := takeOperands_eq_ok_iff.mp ht
          exact ⟨h, op, taken.1, rfl, hop, hlen, hok, rfl⟩
  · rintro ⟨h, op, ops, rfl, hop, hlen, hok, rfl⟩
    simp only [decode, hop, takeOperands_eq_ok_iff.mpr ⟨rfl, hlen, hok⟩]

/-- Settles O10: the words of a command are a legal header and its legal operand words, which give it back. -/
theorem decodeEncodeRoundTrip : Obligations.DecodeEncodeRoundTrip := by
  intro i rest hwf
  obtain ⟨hop, hlen, hok⟩ := headerAccepted i
  exact decode_eq_ok_iff.mpr ⟨encodeHeader i, i.op, encodeOperands i, rfl, hop, hlen, hok, (build_encode hwf).symm⟩

theorem addrOk_fieldAddr (w : Word) : addrOk (fieldAddr w) = true := decide_eq_true w.isLt

/-- What the fields of any words give has an encoding (R9). -/
theorem wellFormed_build (op : Op) (h w1 w2 w3 : Word) : WellFormed (build op h w1 w2 w3) = true := by
  cases op <;> simp [build, WellFormed, fieldLo, fieldHi, coordOk_sext16, addrOk_fieldAddr]

/-- Legal operand words are the operand words of the command they give (R82). -/
theorem encodeOperands_build {op : Op} {ops : List Word} (hlen : ops.length = opK op)
    (hok : operandsOk (opKinds op) ops = true) (h : Word) :
    encodeOperands (build op h (ops.getD 0 0) (ops.getD 1 0) (ops.getD 2 0)) = ops := by
  cases op
  case clear | setfg | setfgbg =>
    obtain rfl := List.length_eq_zero_iff.mp hlen
    rfl
  case setpixel | getpixel =>
    obtain ⟨a, rfl⟩ := List.length_eq_one_iff.mp hlen
    simp [build, encodeOperands, packPair_fields]
  case line | rect | fillrect =>
    obtain ⟨a, b, rfl⟩ := List.length_eq_two.mp hlen
    simp [build, encodeOperands, packPair_fields]
  case circle | fillcircle =>
    obtain ⟨a, b, rfl⟩ := List.length_eq_two.mp hlen
    have hb : operandOk .radius b = true := by simpa [operandsOk, opKinds, operandOk] using hok
    simp [build, encodeOperands, packPair_fields, packRadius_field hb]
  case roundrect | fillroundrect =>
    obtain ⟨a, b, c, rfl⟩ := List.length_eq_three.mp hlen
    have hc : operandOk .radius c = true := by simpa [operandsOk, opKinds, operandOk] using hok
    simp [build, encodeOperands, packPair_fields, packRadius_field hc]
  case triangle | filltriangle | blit | blitx =>
    obtain ⟨a, b, c, rfl⟩ := List.length_eq_three.mp hlen
    simp [build, encodeOperands, packPair_fields, packAddr_field]

/-- Settles O11: header and operand words are put together again from the fields they were read as. -/
theorem encodeDecodeRoundTrip : Obligations.EncodeDecodeRoundTrip := by
  intro ws rest i hd
  obtain ⟨h, op, ops, rfl, hop, hlen, hok, rfl⟩ := decode_eq_ok_iff.mp hd
  refine ⟨wellFormed_build op h _ _ _, ?_⟩
  rw [encode, encodeHeader_build hop, encodeOperands_build hlen hok, List.cons_append]

/-- Settles O14: each command's words computed, and read back as O10 says. -/
theorem encodingExamples : Obligations.EncodingExamples := by
  refine ⟨?_, ?_, ?_, ?_, ?_, ?_, ?_, ?_, ?_, ?_, ?_⟩
  case refine_10 => exact decode_encode (i := .blitx 10 20 8 8 0x100 .cw .flipH) (by decide)
  case refine_11 => exact decode_encode (i := .circle 40 24 (-1)) (by decide)
  all_goals decide

/-- A header and all its operand words, with no word after them (R80). -/
theorem decode_packet {h : Word} {op : Op} {ops : List Word} (hop : headerOp h = .ok op) (hlen : ops.length = opK op)
    (hok : operandsOk (opKinds op) ops = true) :
    decode (h :: ops) = .ok (build op h (ops.getD 0 0) (ops.getD 1 0) (ops.getD 2 0), []) :=
  decode_eq_ok_iff.mpr ⟨h, op, ops, by rw [List.append_nil], hop, hlen, hok, rfl⟩

/-- Only R words have reserved bits (R88). -/
@[simp] theorem operandOk_of_ne_radius {k : OperandKind} (hk : k ≠ .radius) (w : Word) : operandOk k w = true := by
  cases k
  case radius => exact absurd rfl hk
  all_goals rfl

/-- An R word is legal when its upper half is 0 (R82, R88). -/
theorem operandOk_radius_iff {w : Word} : operandOk .radius w = true ↔ w >>> 16 = 0 := by
  have hhi : (hiHalf w).toNat = (w >>> 16).toNat := by
    rw [hiHalf, BitVec.extractLsb'_toNat, BitVec.toNat_ushiftRight, Nat.mod_eq_of_lt]
    rw [Nat.shiftRight_eq_div_pow]
    omega
  simp [operandOk, ← BitVec.toNat_inj, hhi]

/-- The header of BLITX for field values given as numbers (R81, R84). -/
theorem blitx_header (rot flip : Fin 4) :
    0x61 ||| BitVec.ofNat 32 (256 * rot.val) ||| BitVec.ofNat 32 (1024 * flip.val) =
      opMatch .blitx ||| rotBits ([BitmapRot.r0, .ccw, .r180, .cw].getD rot.val .r0) |||
        flipBits ([Flip.noflip, .flipH, .flipV, .flipHV].getD flip.val .noflip) := by
  revert rot flip
  decide

/-- Settles O13: each packet is a legal header with its operand words, whose fields are R82's halves and words. -/
theorem operandFieldsDecodeAsTabulated : Obligations.OperandFieldsDecodeAsTabulated := by
  intro a b c fg bg rot flip lo hi hlo hhi
  obtain rfl : lo = fieldLo := funext hlo
  obtain rfl : hi = fieldHi := funext hhi
  have plain {op : Op} {ops : List Word} (hlen : ops.length = opK op) (hok : operandsOk (opKinds op) ops = true) :
      decode (opMatch op :: ops) = .ok (build op (opMatch op) (ops.getD 0 0) (ops.getD 1 0) (ops.getD 2 0), []) :=
    decode_packet (headerOp_opMatch op) hlen hok
  refine ⟨plain (op := .clear) rfl rfl, ?_, ?_, plain (op := .setpixel) rfl rfl, plain (op := .getpixel) rfl rfl,
    plain (op := .line) rfl rfl, plain (op := .rect) rfl rfl, plain (op := .fillrect) rfl rfl, fun hc => ?_,
    plain (op := .triangle) rfl rfl, plain (op := .filltriangle) rfl rfl, plain (op := .blit) rfl rfl, ?_⟩
  · cases fg
    · exact decode_encode (i := .setfg false) rfl
    · exact decode_encode (i := .setfg true) rfl
  · have hword : 0x03 ||| (if fg then 0x100 else 0) ||| (if bg then 0x200 else 0) =
        opMatch .setfgbg ||| colourBit fg 8 ||| colourBit bg 9 := rfl
    rw [hword]
    exact decode_encode (i := .setfgbg fg bg) rfl
  · have hr : operandOk .radius c = true := by
      rw [operandOk_radius_iff, ← BitVec.toNat_inj, BitVec.toNat_ushiftRight, Nat.shiftRight_eq_div_pow]
      exact Nat.div_eq_of_lt hc
    refine ⟨plain (op := .roundrect) rfl ?_, plain (op := .fillroundrect) rfl ?_, plain (op := .circle) rfl ?_,
      plain (op := .fillcircle) rfl ?_⟩ <;> simp [operandsOk, opKinds, hr]
  · rw [blitx_header]
    generalize [BitmapRot.r0, .ccw, .r180, .cw].getD rot.val .r0 = r
    generalize [Flip.noflip, .flipH, .flipV, .flipHV].getD flip.val .noflip = f
    obtain ⟨_, _, _, hrot, hflip⟩ := header_fields true true r f
    rw [decode_packet (headerOp_blitx r f) rfl rfl]
    simp [build, hrot, hflip, fieldAddr]

/-! ### The packet decoder -/

/-- The commands with an R word, and its place among their operands (the operand column of R86). -/
theorem opKinds_radius_iff {op : Op} {j : Nat} :
    (opKinds op)[j]? = some .radius ↔
      ((op = .roundrect ∨ op = .fillroundrect) ∧ j = 2) ∨ ((op = .circle ∨ op = .fillcircle) ∧ j = 1) := by
  by_cases hj : j < 3
  · interval_cases j <;> cases op <;> decide
  · have hshort : (opKinds op).length ≤ j := by
      have hthree : (opKinds op).length ≤ 3 := by cases op <;> decide
      omega
    rw [List.getElem?_eq_none hshort]
    exact iff_of_false nofun (by omega)

/-- Where a header asks for an R word (R86). -/
theorem radiusOperand_iff {h : Word} {j : Nat} : radiusOperand h (j + 1) ↔ (packetKinds h)[j]? = some .radius := by
  have hcodes : radiusOperand h (j + 1) ↔
      ((opOfCode (opField h) = some .roundrect ∨ opOfCode (opField h) = some .fillroundrect) ∧ j + 1 = 3) ∨
        ((opOfCode (opField h) = some .circle ∨ opOfCode (opField h) = some .fillcircle) ∧ j + 1 = 2) := by
    simp only [opOfCode_opField_iff]
    rfl
  rw [hcodes, packetKinds]
  cases opOfCode (opField h) with
  | none => simp
  | some op => simp [opKinds_radius_iff]

section decoder

variable {s : State} {h w : Word} {ws : List Word}

/-- A malformed header word at the decoder (R88, R191). -/
theorem onCmdWord_header_error {e : CmdErr} (hh : s.phase ≠ .halted) (hp : s.pkt = []) (he : headerOp w = .error e) :
    onCmdWord w s = cmdError e w s := by
  simp [onCmdWord, hh, hp, he]

/-- A malformed operand word at the decoder (R88, R191). -/
theorem onCmdWord_operand_error {k : OperandKind} (hh : s.phase ≠ .halted) (hp : s.pkt = h :: ws)
    (hk : (packetKinds h)[ws.length]? = some k) (hw : operandOk k w = false) :
    onCmdWord w s = cmdError .reservedOperand w s := by
  simp [onCmdWord, hh, hp, hk, hw]

end decoder

theorem acceptWord_phase_ne_halted (ks : List OperandKind) (pkt : List Word) (s : State) :
    (acceptWord ks pkt s).phase ≠ .halted := by
  rcases acceptWord_phase ks pkt s with hp | hp <;> rw [hp] <;> nofun

/-- Settles O15: each malformed word is its error, and every other word is accepted. -/
theorem malformedWordsHalt : Obligations.MalformedWordsHalt := by
  intro s w hlive
  refine ⟨fun hpkt hno => ?_, fun hpkt row hrow hop hm => ?_, fun h ws hpkt hr hw => ?_, ?_, fun h ws hpkt hw => ?_⟩
  · exact onCmdWord_header_error hlive hpkt
      (headerOp_of_no_opcode fun op => hno (op, opMatch op, opMask op) (mem_headerTable_iff.mpr rfl))
  · rw [mem_headerTable_iff.mp hrow] at hop hm
    exact onCmdWord_header_error hlive hpkt (headerOp_of_reserved_bit hop hm)
  · have hbad : operandOk .radius w = false := Bool.eq_false_iff.mpr (mt operandOk_radius_iff.mp hw)
    exact onCmdWord_operand_error hlive hpkt (radiusOperand_iff.mp hr) hbad
  · rintro hpkt ⟨row, hrow, hm⟩
    have hop : headerOp w = .ok row.1 := (headerSelectsByMatchAndMask w row.1).mpr ⟨row, hrow, rfl, hm⟩
    rw [onCmdWord_header hlive hpkt hop]
    exact acceptWord_phase_ne_halted _ _ s
  · rcases onCmdWord_cases w s with ⟨hh, _⟩ | ⟨_, hnil, _⟩ | ⟨_, hnil, _⟩ | ⟨_, h', ws', k, hpkt', hk, hbad, _⟩ |
      ⟨_, h', ws', _, _, haccept⟩
    · exact absurd hh hlive
    · rw [hpkt] at hnil; cases hnil
    · rw [hpkt] at hnil; cases hnil
    · obtain ⟨rfl, rfl⟩ := List.cons.inj (hpkt.symm.trans hpkt')
      have hradius : k = .radius := by
        by_contra hk'
        simp [hk'] at hbad
      subst hradius
      rw [operandOk_radius_iff.mpr (hw (radiusOperand_iff.mpr hk))] at hbad
      cases hbad
    · rw [haccept]
      exact acceptWord_phase_ne_halted _ _ s

/-- A decoder that waits for operands takes the next legal one (R90). -/
theorem onCmdWord_acceptWord {s : State} {h w : Word} {ws : List Word} {op : Op} {k : OperandKind}
    (hop : headerOp h = .ok op) (hk : (opKinds op)[ws.length]? = some k) (hw : operandOk k w = true) :
    onCmdWord w (acceptWord (opKinds op) (h :: ws) s) = acceptWord (opKinds op) (h :: (ws ++ [w])) s := by
  obtain ⟨hlt, _⟩ := List.getElem?_eq_some_iff.mp hk
  have hpart : (h :: ws).length ≠ 1 + (opKinds op).length := by rw [List.length_cons]; omega
  rw [acceptWord_of_partial hpart, onCmdWord_operand (s := { s with pkt := h :: ws, status := _, phase := _ })
    (by nofun) rfl hop hk hw, acceptWord_of_receiving]

/-- Legal operand words given to a waiting decoder one by one are accepted in order (R90). -/
theorem foldl_onCmdWord_operands {s : State} {h : Word} {op : Op} (hop : headerOp h = .ok op) (vs ws : List Word)
    (hlen : (ws ++ vs).length ≤ opK op) (hok : operandsOk (opKinds op) (ws ++ vs) = true) :
    vs.foldl (fun u w => onCmdWord w u) (acceptWord (opKinds op) (h :: ws) s) =
      acceptWord (opKinds op) (h :: (ws ++ vs)) s := by
  induction vs generalizing ws with
  | nil => rw [List.append_nil]; rfl
  | cons v vs ih =>
    have hlt : ws.length < (opKinds op).length := by
      rw [List.length_append, List.length_cons, opK] at hlen
      omega
    obtain ⟨k, hk, hv⟩ := operandOk_of_operandsOk hok hlt
    rw [List.foldl_cons, onCmdWord_acceptWord hop hk hv]
    rw [List.append_cons ws v vs] at hlen hok ⊢
    exact ih (ws ++ [v]) hlen hok

/-- The first words of legal operands are legal. -/
theorem operandsOk_take {ks : List OperandKind} {ws : List Word} (hok : operandsOk ks ws = true) (m : Nat) :
    operandsOk ks (ws.take m) = true := by
  induction ks generalizing ws m with
  | nil => rfl
  | cons k ks ih =>
    cases ws with
    | nil => rw [List.take_nil]; rfl
    | cons w ws =>
      cases m with
      | zero => rfl
      | succ m =>
        simp only [operandsOk, List.take_succ_cons, List.zip_cons_cons, List.all_cons, Bool.and_eq_true] at hok ⊢
        obtain ⟨hw, hws⟩ := hok
        exact ⟨hw, ih hws m⟩

/-- The first words of a command, given to an IDLE decoder, are what it then holds (R90). -/
theorem foldl_onCmdWord_encode (i : Instr) {s : State} (hidle : s.phase = .idle) (hpkt : s.pkt = []) (m : Nat) :
    ((encode i).take (m + 1)).foldl (fun u w => onCmdWord w u) s =
      acceptWord (opKinds i.op) ((encode i).take (m + 1)) s := by
  obtain ⟨hop, hlen, hok⟩ := headerAccepted i
  have hlive : s.phase ≠ .halted := by rw [hidle]; nofun
  have hle : ((encodeOperands i).take m).length ≤ opK i.op := by
    rw [← hlen]; exact List.length_take_le' m _
  rw [encode, List.take_succ_cons, List.foldl_cons, onCmdWord_header hlive hpkt hop]
  exact foldl_onCmdWord_operands hop _ [] hle (operandsOk_take hok m)

theorem length_encode (i : Instr) : (encode i).length = 1 + (opKinds i.op).length := by
  obtain ⟨_, hlen, _⟩ := headerAccepted i
  rw [encode, List.length_cons, hlen, opK, Nat.add_comm]

/-- Settles O16: the words given are held, and wait or start as their number says. -/
theorem wordsAssembleToPacket : Obligations.WordsAssembleToPacket := by
  intro i s n _ hidle hpkt hpos hle
  obtain ⟨m, rfl⟩ := Nat.exists_eq_succ_of_ne_zero hpos.ne'
  have htake : ((encode i).take (m + 1)).length = m + 1 := List.length_take_of_le hle
  rw [foldl_onCmdWord_encode i hidle hpkt m]
  by_cases hn : m + 1 = (encode i).length
  · rw [if_pos hn, acceptWord_of_complete (by rw [htake, hn, length_encode]), hn, List.take_length]
    rfl
  · rw [if_neg hn, acceptWord_of_partial (by rw [htake, ← length_encode]; exact hn)]
    rfl

/-! ### The command in PKT -/

theorem fetchCommand_of_decode {s : State} {i : Instr} (hd : decode s.pkt = .ok (i, [])) : fetchCommand s = some i := by
  simp [fetchCommand, hd]

/-- A command that executes has the engine's turn when the turns say so or say nothing (log 8). -/
theorem nextTurn_engine {s : State} (hx : s.phase = .executing)
    (ht : s.turns = [] ∨ ∃ ts, s.turns = .engine :: ts) : (nextTurn s).1 = .engine := by
  rcases ht with ht | ⟨ts, ht⟩
  · rw [nextTurn_of_executing ht hx]
  · simp [nextTurn, ht]

theorem step_of_engine {s : State} (hturn : (nextTurn s).1 = .engine) (hx : s.phase = .executing) :
    step s = runCommand (nextTurn s).2 := by
  simp [step, takeTurn, hturn, hx]

/-- Settles O17: the engine's turn runs the command that PKT decodes to. -/
theorem stepRunsDecodedCommand : Obligations.StepRunsDecodedCommand := by
  intro s i hx ht hd
  have hf : fetchCommand { s with turns := s.turns.tail } = some i := fetchCommand_of_decode hd
  rw [step_of_engine (nextTurn_engine hx ht) hx, nextTurn_state]
  simp only [runCommand, hf]
  cases exec i { s with turns := s.turns.tail } <;> rfl

end Sys2Proof.Machine
end

section
/-!
PROOFS. The framebuffer lifecycle family (40_framebuffer_lifecycle.md): what reads the framebuffer after CLEAR (R110).
-/
namespace Sys2Proof.Machine

/-! ### What GETPIXEL reads -/

/-- `MapRead` names a byte of the framebuffer and a bit of it. -/
theorem mapRead_lt {c : Config} {x y : Int} {i b : Nat} (h : mapRead c x y = .mapped i b) : i < fbBytes c ∧ b < 8 := by
  rcases mapRead_cases c x y with ⟨_, hr⟩ | ⟨_, _, i', b', hmap, hr⟩ | ⟨hin, _, hx, hy, hr⟩ | ⟨_, _, _, hr⟩ <;>
    cases hr.symm.trans h
  · exact mapPixel_lt hmap
  · obtain ⟨hx0, _, hy0, _⟩ := inBounds_iff.mp hin
    exact nativeBit_lt (by omega : x.toNat < nw c) (by omega : y.toNat < nh c)

section pixelRead

variable {s : State} {x y : Int}

theorem pixelRead_of_invalid (h : mapRead s.cfg x y = .invalid) : s.pixelRead x y = false := by
  simp [State.pixelRead, h]

theorem pixelRead_of_mapped {i b : Nat} (h : mapRead s.cfg x y = .mapped i b) : s.pixelRead x y = s.fbBit i b := by
  simp [State.pixelRead, h]

end pixelRead

/-! ### A framebuffer of zero bytes -/

section zeroBytes

variable {s : State} (hzero : ∀ i, i < fbBytes s.cfg → s.fbByte i = 0)
include hzero

/-- The read port serves 0x00 everywhere: inside the framebuffer its byte, beyond it by R58. -/
theorem portByte_of_zeroBytes (i : Nat) : s.portByte i = 0 := by
  unfold State.portByte
  split
  · exact hzero i ‹_›
  · rfl

/-- GETPIXEL reads 0 but where `MapRead` leaves the value free. -/
theorem pixelRead_of_zeroBytes {x y : Int} (hread : mapRead s.cfg x y ≠ .unmapped) : s.pixelRead x y = false := by
  cases hm : mapRead s.cfg x y with
  | invalid => exact pixelRead_of_invalid hm
  | unmapped => exact absurd hm hread
  | mapped i b =>
    obtain ⟨hi, _⟩ := mapRead_lt hm
    rw [pixelRead_of_mapped hm, State.fbBit, hzero i hi]
    exact BitVec.getLsbD_zero

end zeroBytes

/-- CLEAR writes every byte of the framebuffer (R110). -/
theorem fbByte_setFb_zeros (s : State) {n i : Nat} (hi : i < n) : (s.setFb (zeros n)).fbByte i = 0 := by
  rw [fbByte_setFb, lookup_zeros hi, Option.getD_some]

/-- Settles O31: CLEAR leaves a framebuffer of zero bytes, which the port and GETPIXEL then read. -/
theorem clearZeroesFramebuffer : Obligations.ClearZeroesFramebuffer := by
  intro s
  have hzero : ∀ i, i < fbBytes s.cfg → (s.setFb (zeros (fbBytes s.cfg))).fbByte i = 0 :=
    fun _ hi => fbByte_setFb_zeros s hi
  exact ⟨s.setFb (zeros (fbBytes s.cfg)), rfl, rfl, hzero, portByte_of_zeroBytes hzero,
    fun _ _ hread => pixelRead_of_zeroBytes hzero hread⟩

end Sys2Proof.Machine
end

section
/-!
PROOFS. The pixel family (41_pixel.md): one `Plot` and a painted set of pixels (R121, R124), SETPIXEL and GETPIXEL
(R122, R123), and the shape commands as paintings of their pixel sets (R125).
-/
namespace Sys2Proof.Machine

/-! ### One `Plot` -/

section plot

variable {s : State} {x y : Int}

theorem plot_eq (s : State) (x y : Int) (c : Colour) : s.plot x y c = s.plotAll [((x, y), c)] := rfl

/-- `Plot` of an INVALID point changes nothing (R121). -/
theorem plot_of_invalid (h : mapPixel s.cfg x y = none) (c : Colour) : s.plot x y c = s := by
  have hfb : plotFb s.cfg s.fbDraw s.fb ((x, y), c) = s.fb := by simp [plotFb, h]
  calc s.plot x y c = s.setFb (plotFb s.cfg s.fbDraw s.fb ((x, y), c)) := rfl
    _ = s := by rw [hfb, setFb_self]

/-- `Plot` leaves every byte but its own alone (R121). -/
theorem plot_fbByte_of_ne {i b i' : Nat} (h : mapPixel s.cfg x y = some (i, b)) (hne : i' ≠ i) (c : Colour) :
    (s.plot x y c).fbByte i' = s.fbByte i' := by
  have hfb : (s.plot x y c).fb = update s.fb i (Config.freeFbByte s.fbDraw i) (fun v => setBit v b c) := by
    simp [plot_eq, plotFb, h]
  rw [State.fbByte, hfb, lookup_update_ne _ hne]
  rfl

/-- The bit `Plot` writes (R121). -/
theorem plot_fbBit_same {i b : Nat} (h : mapPixel s.cfg x y = some (i, b)) (c : Colour) :
    (s.plot x y c).fbBit i b = c := by
  rw [plot_eq, plot_fbBit, if_pos h]

/-- `Plot` leaves the other seven bits of its byte alone (R121). -/
theorem plot_fbBit_of_ne {i b b' : Nat} (h : mapPixel s.cfg x y = some (i, b)) (hne : b' ≠ b) (c : Colour) :
    (s.plot x y c).fbBit i b' = s.fbBit i b' := by
  rw [plot_eq, plot_fbBit, if_neg]
  simp [h, hne.symm]

end plot

/-- Settles O29: the written byte bit by bit, every other byte whole. -/
theorem plotWritesOneBit : Obligations.PlotWritesOneBit :=
  fun _ _ _ c => ⟨fun h => plot_of_invalid h c, fun _ _ h =>
    ⟨plotAll_only _ _, plot_fbBit_same h c, fun _ hb => plot_fbBit_of_ne h hb c, fun _ hi => plot_fbByte_of_ne h hi c⟩⟩

/-! ### Painting a set of pixels -/

section paints

variable {s t u : State} {S T : Int → Int → Prop} {c : Colour}

/-- What is painted depends on the set of pixels, however it is described. -/
theorem Paints.congr (h : Paints s t S c) (hST : ∀ x y, S x y ↔ T x y) : Paints s t T c := by
  obtain rfl : S = T := funext₂ fun x y => propext (hST x y)
  exact h

/-- Painting a set determines every framebuffer bit: the colour on the set's bits, the old bit elsewhere (R124). -/
theorem Paints.fbBit_unique (ht : Paints s t S c) (hu : Paints s u S c) (i b : Nat) : t.fbBit i b = u.fbBit i b := by
  by_cases hit : ∃ x y, mapPixel s.cfg x y = some (i, b) ∧ S x y
  · obtain ⟨x, y, hm, hS⟩ := hit
    rw [ht.inside x y i b hm hS, hu.inside x y i b hm hS]
  · have hno : ∀ x y, mapPixel s.cfg x y = some (i, b) → ¬ S x y := fun x y hm hS => hit ⟨x, y, hm, hS⟩
    rw [ht.outside i b hno, hu.outside i b hno]

/-- A command whose meaning is `Plot` in FG for a list of pixels completes and paints the list's set. -/
theorem paints_of_exec {i : Instr} {ps : List Pixel} (h : exec i s = .next (s.paint ps s.fg)) :
    ∃ t, exec i s = .next t ∧ Paints s t (fun x y => (x, y) ∈ ps) s.fg := ⟨_, h, paint_paints s ps s.fg⟩

end paints

/-- Settles O30: both lists paint the one set. -/
theorem plotOrderIsInvisible : Obligations.PlotOrderIsInvisible := by
  intro s ps qs c hsame
  have hps : Paints s (s.paint ps c) (fun x y => (x, y) ∈ qs) c :=
    (paint_paints s ps c).congr fun x y => hsame (x, y)
  exact hps.fbBit_unique (paint_paints s qs c)

/-- Settles O39: each meaning is `Plot` in FG for the command's pixels. -/
theorem shapesPaintTheirPixels : Obligations.ShapesPaintTheirPixels := fun _ _ _ _ _ _ _ _ =>
  ⟨paints_of_exec rfl, paints_of_exec rfl, paints_of_exec rfl, paints_of_exec rfl, paints_of_exec rfl,
    paints_of_exec rfl, paints_of_exec rfl⟩

/-! ### SETPIXEL and GETPIXEL -/

section pixelCommands

variable (s : State) (x y : Int)

theorem exec_setpixel : exec (.setpixel x y) s = .next (s.plot x y s.fg) := rfl

theorem exec_getpixel : exec (.getpixel x y) s = .next (s.setResult (resultWord (s.pixelRead x y))) := rfl

theorem resultWord_eq (v : Bool) : resultWord v = if v then 1 else 0 := rfl

theorem plot_paints (c : Colour) : Paints s (s.plot x y c) (fun px py => px = x ∧ py = y) c :=
  (paint_paints s [(x, y)] c).congr fun px py => by simp

end pixelCommands

/-- With READ_MAP = 0, GETPIXEL reads an in-bounds point through `Map` (R71). -/
theorem mapRead_of_rotationAware {c : Config} {x y : Int} {i b : Nat} (hread : c.readMap = .rotationAware)
    (h : mapPixel c x y = some (i, b)) : mapRead c x y = .mapped i b := by
  obtain ⟨_, hmapped, _⟩ := mapReadTargets c x y
  exact (hmapped (.inl hread) i b).mpr h

/-- Settles O33: one `Plot`, which out of bounds writes nothing. -/
theorem setpixelPaintsItsPixel : Obligations.SetpixelPaintsItsPixel := fun s x y =>
  ⟨s.plot x y s.fg, exec_setpixel s x y, plot_paints s x y s.fg,
    fun hout => plot_of_invalid (mapPixel_of_not_inBounds hout) s.fg⟩

/-- Settles O34: RESULT takes the value of each case of `MapRead`. -/
theorem getpixelReadsItsPixel : Obligations.GetpixelReadsItsPixel := by
  intro s x y
  refine ⟨resultWord (s.pixelRead x y), exec_getpixel s x y, fun h => ?_, fun _ => resultWord_eq_zero_or_one _,
    fun i b h => ?_⟩
  · rw [pixelRead_of_invalid h, resultWord_eq, if_neg Bool.false_ne_true]
  · rw [pixelRead_of_mapped h, resultWord_eq]

/-- Settles O35: with READ_MAP = 0, `MapRead` names the bit that `Plot` wrote. -/
theorem setpixelThenGetpixel : Obligations.SetpixelThenGetpixel := by
  intro s x y hread hin
  obtain ⟨⟨i, b⟩, hmap⟩ := Option.isSome_iff_exists.mp ((mapPixel_isSome s.cfg x y).trans hin)
  have hpixel : (s.plot x y s.fg).pixelRead x y = s.fg := by
    have hmapped : mapRead (s.plot x y s.fg).cfg x y = .mapped i b := mapRead_of_rotationAware hread hmap
    rw [pixelRead_of_mapped hmapped, plot_fbBit_same hmap]
  refine ⟨s.plot x y s.fg, exec_setpixel s x y, ?_⟩
  rw [exec_getpixel, hpixel]
  rfl

end Sys2Proof.Machine
end

section
/-!
PROOFS. Lines and rectangles (42_raster_lines_rects.md): the spans as intervals (R130 to R132), RECT and FILLRECT as
painted sets (R134, R135), and LINE in closed form (R133, R136).
-/
namespace Sys2Proof.Machine

/-! ### Spans -/

section spans

variable {x y a b n : Int} {p : Pixel}

@[simp] theorem mem_hspan : p ∈ hspan x y n ↔ p.2 = y ∧ x ≤ p.1 ∧ p.1 < x + n := by
  obtain ⟨px, py⟩ := p
  simp only [hspan, List.mem_map, List.mem_range, Prod.mk.injEq]
  constructor
  · rintro ⟨i, hi, rfl, rfl⟩
    omega
  · rintro ⟨rfl, hlo, hhi⟩
    exact ⟨(px - x).toNat, by omega, by omega, rfl⟩

@[simp] theorem mem_vspan : p ∈ vspan x y n ↔ p.1 = x ∧ y ≤ p.2 ∧ p.2 < y + n := by
  obtain ⟨px, py⟩ := p
  simp only [vspan, List.mem_map, List.mem_range, Prod.mk.injEq]
  constructor
  · rintro ⟨j, hj, rfl, rfl⟩
    omega
  · rintro ⟨rfl, hlo, hhi⟩
    exact ⟨(py - y).toNat, by omega, rfl, by omega⟩

/-- A run written as its smaller endpoint and its length is the run between its endpoints. -/
theorem lt_min_add_natAbs_iff {c : Int} : c < min a b + ((b - a).natAbs + 1 : Int) ↔ c ≤ max a b := by omega

@[simp] theorem mem_pspan : p ∈ pspan a b y ↔ p.2 = y ∧ min a b ≤ p.1 ∧ p.1 ≤ max a b := by
  rw [pspan, mem_hspan, lt_min_add_natAbs_iff]

end spans

/-- Settles O37: each span is an interval of one row or of one column. -/
theorem spansAreIntervals : Obligations.SpansAreIntervals := fun _ _ _ _ _ _ => ⟨mem_hspan, mem_vspan, mem_pspan⟩

/-! ### RECT and FILLRECT -/

section rectangles

variable {x y w h : Int} {p : Pixel}

/-- RECT's four spans are the border (R134). -/
theorem mem_rectPixels : p ∈ rectPixels x y w h ↔
    (x ≤ p.1 ∧ p.1 < x + w ∧ y ≤ p.2 ∧ p.2 < y + h) ∧
      (p.1 = x ∨ p.1 = x + w - 1 ∨ p.2 = y ∨ p.2 = y + h - 1) := by
  by_cases hempty : w ≤ 0 ∨ h ≤ 0
  · rw [rectPixels, if_pos hempty]
    simp only [List.not_mem_nil, false_iff]
    omega
  · rw [rectPixels, if_neg hempty]
    simp only [List.mem_append, mem_hspan, mem_vspan]
    omega

/-- FILLRECT's rows are the rectangle (R135). -/
theorem mem_fillrectPixels : p ∈ fillrectPixels x y w h ↔ x ≤ p.1 ∧ p.1 < x + w ∧ y ≤ p.2 ∧ p.2 < y + h := by
  by_cases hempty : w ≤ 0 ∨ h ≤ 0
  · rw [fillrectPixels, if_pos hempty]
    simp only [List.not_mem_nil, false_iff]
    omega
  · rw [fillrectPixels, if_neg hempty]
    simp only [List.mem_flatMap, List.mem_range, mem_hspan]
    constructor
    · rintro ⟨j, hj, hrow, hlo, hhi⟩
      omega
    · rintro ⟨hlo, hhi, htop, hbottom⟩
      exact ⟨(p.2 - y).toNat, by omega, by omega, hlo, hhi⟩

end rectangles

/-- A command that is `Plot` in FG for a list of pixels paints any set that has the list's members. -/
theorem paints_of_exec_of_mem_iff {s : State} {i : Instr} {ps : List Pixel} {S : Int → Int → Prop}
    (h : exec i s = .next (s.paint ps s.fg)) (hmem : ∀ x y, (x, y) ∈ ps ↔ S x y) :
    ∃ t, exec i s = .next t ∧ Paints s t S s.fg := by
  obtain ⟨t, ht, hpaints⟩ := paints_of_exec h
  exact ⟨t, ht, hpaints.congr hmem⟩

/-- Settles O42: RECT's pixels are the border. -/
theorem rectPaintsBorder : Obligations.RectPaintsBorder :=
  fun _ _ _ _ _ => paints_of_exec_of_mem_iff rfl fun _ _ => mem_rectPixels

/-- Settles O43: FILLRECT's pixels are the rectangle. -/
theorem fillrectPaintsRectangle : Obligations.FillrectPaintsRectangle :=
  fun _ _ _ _ _ => paints_of_exec_of_mem_iff rfl fun _ _ => mem_fillrectPixels

/-! ### The loop of LINE -/

/-- The pixel with the given major and minor coordinates: a steep line's major axis is vertical. -/
def axisPixel (steep : Bool) (major minor : Int) : Pixel := if steep then (minor, major) else (major, minor)

theorem eq_axisPixel_false_iff {p : Pixel} {u v : Int} : p = axisPixel false u v ↔ p.1 = u ∧ p.2 = v := Prod.ext_iff

theorem eq_axisPixel_true_iff {p : Pixel} {u v : Int} : p = axisPixel true u v ↔ p.2 = u ∧ p.1 = v :=
  Prod.ext_iff.trans and_comm

/-- How many minor steps the loop of R133 has made `k` pixels after its error was `err`: the steps that bring
`err - k * dy` back into `[0, dx)`. -/
def minorSteps (dx dy err : Int) (k : Nat) : Int := (k * dy + dx - 1 - err) / dx

section loop

variable {dx dy err : Int}

theorem minorSteps_zero (h0 : 0 ≤ err) (hlt : err < dx) : minorSteps dx dy err 0 = 0 := by
  have : (dx - 1 - err) / dx = 0 := Int.ediv_eq_zero_of_lt (by omega) (by omega)
  simpa [minorSteps] using this

/-- A line without slope makes no minor step. -/
theorem minorSteps_level (h0 : 0 ≤ err) (hlt : err < dx) (k : Nat) : minorSteps dx 0 err k = 0 := by
  simpa [minorSteps] using minorSteps_zero (dy := 0) h0 hlt

theorem minorSteps_succ (dx dy err : Int) (k : Nat) : minorSteps dx dy err (k + 1) = minorSteps dx dy (err - dy) k := by
  simp only [minorSteps]
  congr 1
  push_cast
  ring

/-- Raising the error by `dx` takes one minor step off. -/
theorem minorSteps_add_dx (h : 0 < dx) (k : Nat) : minorSteps dx dy (err + dx) k = minorSteps dx dy err k - 1 := by
  have hnum : (k : Int) * dy + dx - 1 - (err + dx) = k * dy + dx - 1 - err + dx * (-1) := by ring
  rw [minorSteps, hnum, Int.add_mul_ediv_left _ _ h.ne']
  rfl

/-- The loop of R133 in closed form. While the error stays in `[0, dx)` and the line is no steeper than its major axis,
one minor step per pixel is enough. -/
theorem lineLoop_eq_map (steep : Bool) (ystep : Int) (hdy : 0 ≤ dy) (hle : dy ≤ dx) (n : Nat) (x y : Int) (h0 : 0 ≤ err)
    (hlt : err < dx) : lineLoop steep dx dy ystep n x y err =
      (List.range n).map fun (k : Nat) => axisPixel steep (x + k) (y + ystep * minorSteps dx dy err k) := by
  induction n generalizing x y err with
  | zero => rfl
  | succ n ih =>
    rw [List.range_succ_eq_map, List.map_cons, List.map_map, minorSteps_zero h0 hlt, lineLoop]
    congr 1
    · simp [axisPixel]
    by_cases hneg : err - dy < 0
    · rw [if_pos hneg, ih _ _ (by omega) (by omega)]
      refine List.map_congr_left fun k _ => ?_
      simp only [Function.comp_apply, Nat.succ_eq_add_one, minorSteps_succ, minorSteps_add_dx (h0.trans_lt hlt)]
      congr 1
      · push_cast; ring
      · ring
    · rw [if_neg hneg, ih _ _ (by omega) (by omega)]
      refine List.map_congr_left fun k _ => ?_
      simp only [Function.comp_apply, Nat.succ_eq_add_one, minorSteps_succ]
      congr 1
      push_cast; ring

end loop

/-! ### LINE between ordered endpoints -/

section ordered

variable {steep : Bool} {x0 y0 x1 y1 : Int}

/-- The loop's `ystep` is the slope's sign, but for a level line, which makes no minor step. -/
theorem ystep_mul_minorSteps (hx : x0 < x1) (k : Nat) :
    (if y0 < y1 then 1 else -1) * minorSteps (x1 - x0) (y1 - y0).natAbs ((x1 - x0) / 2) k =
      (y1 - y0).sign * minorSteps (x1 - x0) (y1 - y0).natAbs ((x1 - x0) / 2) k := by
  rcases lt_trichotomy y0 y1 with hlt | rfl | hgt
  · rw [if_pos hlt, Int.sign_eq_one_of_pos (by omega)]
  · rw [sub_self, Int.natAbs_zero, Nat.cast_zero, minorSteps_level (by omega) (by omega), mul_zero, mul_zero]
  · rw [if_neg (by omega), Int.sign_eq_neg_one_of_neg (by omega)]

/-- R133 between endpoints in increasing order of the major axis. -/
theorem lineOrdered_eq_map (hx : x0 < x1) (hle : ((y1 - y0).natAbs : Int) ≤ x1 - x0) :
    lineOrdered steep x0 y0 x1 y1 = (List.range (x1 - x0 + 1).toNat).map fun (k : Nat) => axisPixel steep (x0 + k)
      (y0 + (y1 - y0).sign * minorSteps (x1 - x0) (y1 - y0).natAbs ((x1 - x0) / 2) k) := by
  rw [lineOrdered, lineLoop_eq_map steep _ (by omega) hle _ _ _ (by omega) (by omega)]
  simp only [ystep_mul_minorSteps hx]

theorem mem_lineOrdered {p : Pixel} (hx : x0 < x1) (hle : ((y1 - y0).natAbs : Int) ≤ x1 - x0) :
    p ∈ lineOrdered steep x0 y0 x1 y1 ↔ ∃ k : Nat, (k : Int) ≤ x1 - x0 ∧ p = axisPixel steep (x0 + k)
      (y0 + (y1 - y0).sign * minorSteps (x1 - x0) (y1 - y0).natAbs ((x1 - x0) / 2) k) := by
  simp only [lineOrdered_eq_map hx hle, List.mem_map, List.mem_range]
  refine exists_congr fun k => and_congr ?_ eq_comm
  omega

theorem lineOrdered_level (hx : x0 < x1) (y : Int) : lineOrdered steep x0 y x1 y =
    (List.range (x1 - x0 + 1).toNat).map fun (k : Nat) => axisPixel steep (x0 + k) y := by
  rw [lineOrdered_eq_map hx (by omega)]
  simp

/-- The endpoints are put in order, so their order does not matter unless they share the major coordinate alone (R136). -/
theorem lineMajor_comm (h : x0 = x1 → y0 = y1) : lineMajor steep x0 y0 x1 y1 = lineMajor steep x1 y1 x0 y0 := by
  rcases lt_trichotomy x0 x1 with hlt | heq | hgt
  · rw [lineMajor, if_neg hlt.not_gt, lineMajor, if_pos hlt]
  · rw [heq, h heq]
  · rw [lineMajor, if_pos hgt, lineMajor, if_neg hgt.not_gt]

theorem lineMajor_of_lt (h : x0 < x1) : lineMajor steep x0 y0 x1 y1 = lineOrdered steep x0 y0 x1 y1 := if_neg h.not_gt

end ordered

/-! ### LINE -/

section line

variable {x0 y0 x1 y1 : Int} {p : Pixel}

theorem lineGeneral_steep (h : (x1 - x0).natAbs < (y1 - y0).natAbs) :
    lineGeneral x0 y0 x1 y1 = lineMajor true y0 x0 y1 x1 := if_pos h

theorem lineGeneral_gentle (h : (y1 - y0).natAbs ≤ (x1 - x0).natAbs) :
    lineGeneral x0 y0 x1 y1 = lineMajor false x0 y0 x1 y1 := if_neg h.not_gt

theorem linePixels_vertical (x y0 y1 : Int) : linePixels x y0 x y1 = vspan x (min y0 y1) ((y1 - y0).natAbs + 1) :=
  if_pos rfl

theorem linePixels_horizontal (h : x0 ≠ x1) (y : Int) :
    linePixels x0 y x1 y = hspan (min x0 x1) y ((x1 - x0).natAbs + 1) := by rw [linePixels, if_neg h, if_pos rfl]

theorem linePixels_sloped (hx : x0 ≠ x1) (hy : y0 ≠ y1) : linePixels x0 y0 x1 y1 = lineGeneral x0 y0 x1 y1 := by
  rw [linePixels, if_neg hx, if_neg hy]

/-- The general loop takes the two endpoints in either order (R136). -/
theorem lineGeneral_comm (x0 y0 x1 y1 : Int) : lineGeneral x0 y0 x1 y1 = lineGeneral x1 y1 x0 y0 := by
  by_cases hsteep : (x1 - x0).natAbs < (y1 - y0).natAbs
  · rw [lineGeneral_steep hsteep, lineGeneral_steep (by omega), lineMajor_comm (by omega)]
  · rw [lineGeneral_gentle (by omega), lineGeneral_gentle (by omega), lineMajor_comm (by omega)]

theorem lineGeneral_point (x y : Int) : lineGeneral x y x y = vspan x y 1 := by
  simp [lineGeneral, lineMajor, lineOrdered, lineLoop, vspan]

theorem lineGeneral_vertical (h : y0 < y1) (x : Int) : lineGeneral x y0 x y1 = vspan x y0 (y1 - y0 + 1) := by
  rw [lineGeneral_steep (by omega), lineMajor_of_lt h, lineOrdered_level h]
  rfl

theorem lineGeneral_horizontal (h : x0 < x1) (y : Int) : lineGeneral x0 y x1 y = hspan x0 y (x1 - x0 + 1) := by
  rw [lineGeneral_gentle (by omega), lineMajor_of_lt h, lineOrdered_level h]
  rfl

/-- The vertical case is the general loop's list (R136). -/
theorem vspan_eq_lineGeneral (x y0 y1 : Int) :
    vspan x (min y0 y1) ((y1 - y0).natAbs + 1) = lineGeneral x y0 x y1 := by
  rcases lt_trichotomy y0 y1 with hlt | rfl | hgt
  · rw [lineGeneral_vertical hlt, min_eq_left hlt.le, Int.natAbs_of_nonneg (by omega)]
  · simp [lineGeneral_point]
  · rw [lineGeneral_comm, lineGeneral_vertical hgt, min_eq_right hgt.le, Int.ofNat_natAbs_of_nonpos (by omega), neg_sub]

/-- The horizontal case is the general loop's list (R136). -/
theorem hspan_eq_lineGeneral (h : x0 ≠ x1) (y : Int) :
    hspan (min x0 x1) y ((x1 - x0).natAbs + 1) = lineGeneral x0 y x1 y := by
  rcases h.lt_or_gt with hlt | hgt
  · rw [lineGeneral_horizontal hlt, min_eq_left hlt.le, Int.natAbs_of_nonneg (by omega)]
  · rw [lineGeneral_comm, lineGeneral_horizontal hgt, min_eq_right hgt.le, Int.ofNat_natAbs_of_nonpos (by omega), neg_sub]

/-- LINE is the general loop, its two degenerate cases included (R136). -/
theorem linePixels_eq_lineGeneral (x0 y0 x1 y1 : Int) : linePixels x0 y0 x1 y1 = lineGeneral x0 y0 x1 y1 := by
  by_cases hx : x0 = x1
  · subst hx
    rw [linePixels_vertical, vspan_eq_lineGeneral]
  by_cases hy : y0 = y1
  · subst hy
    rw [linePixels_horizontal hx, hspan_eq_lineGeneral hx]
  · exact linePixels_sloped hx hy

theorem linePixels_comm (x0 y0 x1 y1 : Int) : linePixels x0 y0 x1 y1 = linePixels x1 y1 x0 y0 := by
  rw [linePixels_eq_lineGeneral, lineGeneral_comm, linePixels_eq_lineGeneral]

theorem mem_linePixels_vertical (x y0 y1 : Int) :
    p ∈ linePixels x y0 x y1 ↔ p.1 = x ∧ min y0 y1 ≤ p.2 ∧ p.2 ≤ max y0 y1 := by
  rw [linePixels_vertical, mem_vspan, lt_min_add_natAbs_iff]

theorem mem_linePixels_horizontal (x0 x1 y : Int) :
    p ∈ linePixels x0 y x1 y ↔ p.2 = y ∧ min x0 x1 ≤ p.1 ∧ p.1 ≤ max x0 x1 := by
  by_cases hx : x0 = x1
  · subst hx
    rw [mem_linePixels_vertical]
    omega
  · rw [linePixels_horizontal hx, mem_hspan, lt_min_add_natAbs_iff]

/-- R133 for a line no steeper than 45 degrees, from its left end; the minor axis may be level. -/
theorem mem_linePixels_gentle (hx : x0 < x1) (hle : ((y1 - y0).natAbs : Int) ≤ x1 - x0) :
    p ∈ linePixels x0 y0 x1 y1 ↔ ∃ k : Nat, (k : Int) ≤ x1 - x0 ∧ p.1 = x0 + k ∧
      p.2 = y0 + (y1 - y0).sign * minorSteps (x1 - x0) (y1 - y0).natAbs ((x1 - x0) / 2) k := by
  rw [linePixels_eq_lineGeneral, lineGeneral_gentle (by omega), lineMajor_of_lt hx, mem_lineOrdered hx hle]
  simp only [eq_axisPixel_false_iff]

/-- R133 for a line steeper than 45 degrees, from its upper end. -/
theorem mem_linePixels_steep (hy : y0 < y1) (hlt : ((x1 - x0).natAbs : Int) < y1 - y0) :
    p ∈ linePixels x0 y0 x1 y1 ↔ ∃ k : Nat, (k : Int) ≤ y1 - y0 ∧ p.2 = y0 + k ∧
      p.1 = x0 + (x1 - x0).sign * minorSteps (y1 - y0) (x1 - x0).natAbs ((y1 - y0) / 2) k := by
  rw [linePixels_eq_lineGeneral, lineGeneral_steep (by omega), lineMajor_of_lt hy, mem_lineOrdered hy hlt.le]
  simp only [eq_axisPixel_true_iff]

end line

/-- Settles O40: the vertical, the horizontal, the gentle and the steep line. -/
theorem linePixelsClosedForm : Obligations.LinePixelsClosedForm := by
  intro x0 y0 x1 y1 p
  refine ⟨?_, ?_, fun hx _ hle => mem_linePixels_gentle hx hle, fun hy _ hlt => mem_linePixels_steep hy hlt⟩
  · rintro rfl
    exact mem_linePixels_vertical x0 y0 y1
  · rintro rfl
    exact mem_linePixels_horizontal x0 x1 y0

/-- Settles O41: the lists themselves are equal. -/
theorem lineIgnoresEndpointOrder : Obligations.LineIgnoresEndpointOrder := fun x0 y0 x1 y1 =>
  ⟨fun p => by rw [linePixels_comm], fun p => by rw [linePixels_eq_lineGeneral]⟩

end Sys2Proof.Machine
end

section
/-!
PROOFS. The circles (43_raster_circles.md): the walk in closed form (R140), CIRCLE and FILLCIRCLE as sets of offsets from
the centre (R141 to R144), and the disc that FILLCIRCLE is, from which its symmetry and its rows follow (R145, R146).
-/
namespace Sys2Proof.Machine

/-! ### The loop of `Walk` -/

/-- The loop of `Walk(r)` at the point `(x, y)`: its error and its two increments are functions of the point (R140). -/
def walkFrom (r : Int) (n : Nat) (x y : Int) : List (Int × Int) :=
  walkLoop n ((x + 1) * (x + 1) + y * y - y - r * r) (2 * x + 1) (-2 * y) x y

/-- The walk's `y` one column right of `(x, y)`: one less where `(x + 1, y)` is too far from the centre. -/
def nextY (r x y : Int) : Int := if r * r ≤ (x + 1) * (x + 1) + y * y - y then y - 1 else y

/-- What the walk keeps at its points: they are in the octant, and within half a pixel of the circle. -/
structure OnArc (r x y : Int) : Prop where
  x_nonneg : 0 ≤ x
  y_nonneg : 0 ≤ y
  y_le : y ≤ r
  x_le : x ≤ y + 1
  lower : x * x + y * y - y ≤ r * r
  upper : r * r ≤ x * x + y * y + y
  strict : 0 < y → x ≤ y → x * x + y * y - y < r * r

section walkFrom

variable {r x y : Int} {n : Nat}

theorem walk_eq_walkFrom (r : Int) : walk r = walkFrom r r.toNat 0 r := by
  rw [walk, walkFrom]
  congr 1
  ring

theorem walkFrom_of_le (h : y ≤ x) : walkFrom r n x y = [] := by
  cases n with
  | zero => rfl
  | succ n => rw [walkFrom, walkLoop, if_neg h.not_gt]

theorem walkFrom_succ (h : x < y) :
    walkFrom r (n + 1) x y = (x + 1, nextY r x y) :: walkFrom r n (x + 1) (nextY r x y) := by
  rw [walkFrom, walkLoop, if_pos h]
  by_cases hf : r * r ≤ (x + 1) * (x + 1) + y * y - y
  · have hf' : (x + 1) * (x + 1) + y * y - y - r * r ≥ 0 := by omega
    simp only [if_pos hf', nextY, if_pos hf, walkFrom]
    congr 2 <;> ring
  · have hf' : ¬ (x + 1) * (x + 1) + y * y - y - r * r ≥ 0 := by omega
    simp only [if_neg hf', nextY, if_neg hf, walkFrom]
    congr 2 <;> ring

theorem length_walkFrom_le (r : Int) (n : Nat) (x y : Int) : (walkFrom r n x y).length ≤ n := by
  induction n generalizing x y with
  | zero => exact Nat.le_refl 0
  | succ n ih =>
    by_cases h : x < y
    · rw [walkFrom_succ h, List.length_cons]
      exact Nat.succ_le_succ (ih _ _)
    · rw [walkFrom_of_le (not_lt.mp h)]
      exact Nat.zero_le _

/-- `n` passes are enough from `(x, y)` on when `y ≤ x + n`. -/
theorem length_walkFrom_pos_iff (hfuel : y ≤ x + n) : 0 < (walkFrom r n x y).length ↔ x < y := by
  by_cases h : x < y
  · obtain ⟨m, rfl⟩ : ∃ m, n = m + 1 := ⟨n - 1, by omega⟩
    simp [walkFrom_succ h, h]
  · simp [walkFrom_of_le (not_lt.mp h), h]

theorem nextY_le (r x y : Int) : nextY r x y ≤ y := by
  unfold nextY
  split <;> omega

theorem le_nextY_add_one (r x y : Int) : y ≤ nextY r x y + 1 := by
  unfold nextY
  split <;> omega

theorem OnArc.start (h : 0 ≤ r) : OnArc r 0 r where
  x_nonneg := le_rfl
  y_nonneg := h
  y_le := le_rfl
  x_le := by omega
  lower := by omega
  upper := by omega
  strict := by omega

/-- One pass of the loop keeps to the circle. -/
theorem OnArc.next (h : OnArc r x y) (hlt : x < y) : OnArc r (x + 1) (nextY r x y) := by
  obtain ⟨hx, -, hyr, -, -, hupper, hstrict⟩ := h
  have hlower := hstrict (by omega) hlt.le
  unfold nextY
  split
  · -- the step goes down to the next row
    constructor <;> intros <;> linarith
  · -- the step stays on the row
    constructor <;> intros <;> linarith

/-- The entries go right one column each and stay on the arc, and only the last has left the octant. -/
theorem getElem?_walkFrom (h : OnArc r x y) (hfuel : y ≤ x + n) {k : Nat} {a b : Int}
    (hk : (walkFrom r n x y)[k]? = some (a, b)) :
    a = x + (k + 1) ∧ OnArc r a b ∧ (a < b ↔ k + 1 < (walkFrom r n x y).length) := by
  induction n generalizing x y k with
  | zero => cases hk
  | succ n ih =>
    by_cases hlt : x < y
    · have hfuel' : nextY r x y ≤ x + 1 + n := by have := nextY_le r x y; omega
      rw [walkFrom_succ hlt] at hk ⊢
      rw [List.length_cons, Nat.succ_lt_succ_iff]
      cases k with
      | zero =>
        cases hk
        exact ⟨by simp, h.next hlt, (length_walkFrom_pos_iff hfuel').symm⟩
      | succ k =>
        obtain ⟨ha, harc, hlast⟩ := ih (h.next hlt) hfuel' hk
        exact ⟨by omega, harc, hlast⟩
    · rw [walkFrom_of_le (not_lt.mp hlt)] at hk
      cases hk

end walkFrom

/-! ### The entries of `Walk` -/

/-- The walk's entries, by their place (R140). -/
theorem getElem?_walk {r : Int} (hr : 0 ≤ r) {k : Nat} {a b : Int} (hk : (walk r)[k]? = some (a, b)) :
    a = k + 1 ∧ OnArc r a b ∧ (a < b ↔ k + 1 < (walk r).length) := by
  rw [walk_eq_walkFrom] at hk ⊢
  obtain ⟨ha, harc, hlast⟩ := getElem?_walkFrom (OnArc.start hr) (by omega) hk
  exact ⟨by omega, harc, hlast⟩

theorem length_walk_le {r : Int} (hr : 0 ≤ r) : ((walk r).length : Int) ≤ r := by
  have := length_walkFrom_le r r.toNat 0 r
  rw [walk_eq_walkFrom]
  omega

theorem walk_ne_nil {r : Int} (hr : 0 < r) : walk r ≠ [] := by
  rw [walk_eq_walkFrom]
  exact List.ne_nil_of_length_pos ((length_walkFrom_pos_iff (by omega)).mpr hr)

/-- Every entry of the walk is a point of the octant's arc, right of the axis. -/
theorem onArc_of_mem_walk {r a b : Int} (hr : 0 ≤ r) (h : (a, b) ∈ walk r) : 0 < a ∧ OnArc r a b := by
  obtain ⟨k, hk⟩ := List.mem_iff_getElem?.mp h
  obtain ⟨ha, harc, _⟩ := getElem?_walk hr hk
  exact ⟨by omega, harc⟩

/-- Settles O44: the walk's points with the loop's invariant. -/
theorem walkTracksTheCircle : Obligations.WalkTracksTheCircle := by
  intro r hr
  refine ⟨length_walk_le hr, walk_ne_nil, fun k x y hk => ?_⟩
  obtain ⟨hx, harc, hlast⟩ := getElem?_walk hr hk
  refine ⟨hx, harc.y_nonneg, harc.y_le, harc.lower, harc.upper, fun hxy => harc.strict ?_ hxy, hlast⟩
  omega

/-! ### CIRCLE and FILLCIRCLE as sets of offsets -/

/-- The offsets from the centre of CIRCLE's pixels, up to sign: the axis points and the walk in two octants (R143). -/
def CircleOffset (r u v : Int) : Prop := 0 ≤ r ∧ (u = 0 ∧ v = r ∨ u = r ∧ v = 0 ∨ (u, v) ∈ walk r ∨ (v, u) ∈ walk r)

/-- One of the two runs that each entry `(a, b)` of the list gives has `(u, v)` on it (R142). -/
def InRun (es : List (Int × Int)) (u v : Int) : Prop := ∃ a b, (a, b) ∈ es ∧ (v = b ∧ u ≤ a ∨ v = a ∧ u ≤ b)

/-- The offsets from the centre of FILLCIRCLE's pixels, up to sign: the centre row and two runs for each entry (R144). -/
def FillOffset (r u v : Int) : Prop := 0 ≤ r ∧ (v = 0 ∧ u ≤ r ∨ InRun (walk r) u v)

/-- A coordinate at distance `a` from `z`. -/
theorem natAbs_sub_eq_iff {c z a : Int} (ha : 0 ≤ a) : ((c - z).natAbs : Int) = a ↔ c = z + a ∨ c = z - a := by omega

/-- A run about the centre column. -/
theorem mem_pspan_centred {x0 a y : Int} {p : Pixel} (ha : 0 ≤ a) :
    p ∈ pspan (x0 - a) (x0 + a) y ↔ p.2 = y ∧ ((p.1 - x0).natAbs : Int) ≤ a := by
  rw [mem_pspan]
  omega

section pixels

variable {x0 y0 r u v : Int} {p : Pixel} (hu : u = (p.1 - x0).natAbs) (hv : v = (p.2 - y0).natAbs)
include hu hv

/-- One entry's eight points are the entry's two offsets in the four quadrants (R141). -/
theorem mem_mirrors {a b : Int} (ha : 0 ≤ a) (hb : 0 ≤ b) :
    p ∈ [(x0 - b, y0 - a), (x0 - a, y0 - b)] ++ [(x0 + a, y0 - b), (x0 + b, y0 - a)] ++
        [(x0 + a, y0 + b), (x0 + b, y0 + a)] ++ [(x0 - b, y0 + a), (x0 - a, y0 + b)] ↔
      (u, v) = (a, b) ∨ (v, u) = (a, b) := by
  simp only [List.mem_append, List.mem_cons, List.not_mem_nil, or_false, Prod.ext_iff, hu, hv, natAbs_sub_eq_iff ha,
    natAbs_sub_eq_iff hb, or_and_right, and_or_left]
  exact iff_of_eq (by ac_rfl)

/-- `CornerArc` in all four quadrants: the walk mirrored into the eight octants (R141). -/
theorem mem_cornerArc_all (hr : 0 ≤ r) : p ∈ cornerArc x0 y0 r 0b1111 ↔ (u, v) ∈ walk r ∨ (v, u) ∈ walk r := by
  calc p ∈ cornerArc x0 y0 r 0b1111 ↔ ∃ e ∈ walk r, (u, v) = e ∨ (v, u) = e := by
        rw [cornerArc, List.mem_flatMap]
        refine exists_congr fun e => and_congr_right fun hmem => ?_
        obtain ⟨ha, harc⟩ := onArc_of_mem_walk hr hmem
        exact mem_mirrors hu hv ha.le harc.y_nonneg
    _ ↔ (u, v) ∈ walk r ∨ (v, u) ∈ walk r := by simp [and_or_left, exists_or]

/-- `CornerFill` in both halves with no stretch: two runs above and two below for each entry (R142). -/
theorem mem_cornerFill_all (hr : 0 ≤ r) : p ∈ cornerFill x0 y0 r 0b11 0 ↔ InRun (walk r) u v := by
  simp only [cornerFill, InRun, List.mem_flatMap, Prod.exists]
  refine exists_congr fun a => exists_congr fun b => and_congr_right fun hmem => ?_
  obtain ⟨ha, harc⟩ := onArc_of_mem_walk hr hmem
  have hb := harc.y_nonneg
  change p ∈ (pspan _ _ _ ++ pspan _ _ _) ++ (pspan _ _ _ ++ pspan _ _ _) ↔ _
  simp only [List.mem_append, add_zero, mem_pspan_centred ha.le, mem_pspan_centred hb, hu, hv, natAbs_sub_eq_iff ha.le,
    natAbs_sub_eq_iff hb, or_and_right]
  exact iff_of_eq (by ac_rfl)

theorem mem_circlePixels : p ∈ circlePixels x0 y0 r ↔ CircleOffset r u v := by
  by_cases hr : r < 0
  · simp [circlePixels, CircleOffset, hr]
  · have haxis : p ∈ [(x0, y0 + r), (x0, y0 - r), (x0 + r, y0), (x0 - r, y0)] ↔ u = 0 ∧ v = r ∨ u = r ∧ v = 0 := by
      simp only [List.mem_cons, List.not_mem_nil, or_false, Prod.ext_iff, hu, hv, natAbs_sub_eq_iff le_rfl,
        natAbs_sub_eq_iff (not_lt.mp hr), add_zero, sub_zero, or_self, and_or_left, or_and_right, or_assoc]
    rw [circlePixels, if_neg hr, List.mem_append, haxis, mem_cornerArc_all hu hv (not_lt.mp hr), CircleOffset, or_assoc,
      and_iff_right (not_lt.mp hr)]

theorem mem_fillcirclePixels : p ∈ fillcirclePixels x0 y0 r ↔ FillOffset r u v := by
  by_cases hr : r < 0
  · simp [fillcirclePixels, FillOffset, hr]
  · have hrow : p ∈ hspan (x0 - r) y0 (2 * r + 1) ↔ v = 0 ∧ u ≤ r := by
      rw [mem_hspan]
      omega
    rw [fillcirclePixels, if_neg hr, List.mem_append, hrow, mem_cornerFill_all hu hv (not_lt.mp hr), FillOffset,
      and_iff_right (not_lt.mp hr)]

end pixels

/-- Settles O45: both pixel sets by their offsets from the centre. -/
theorem circlesFromTheWalk : Obligations.CirclesFromTheWalk :=
  fun _ _ _ _ _ _ hu hv => ⟨mem_circlePixels hu hv, mem_fillcirclePixels hu hv⟩

/-! ### FILLCIRCLE is a disc -/

/-- The disc of FILLCIRCLE, up to sign: the centre, and the offsets whose point half a pixel nearer to the centre along the
longer axis is inside the circle of radius `r`. -/
def InDisc (r u v : Int) : Prop := 0 ≤ r ∧ (u = 0 ∧ v = 0 ∨ u * u + v * v - max u v < r * r)

section disc

variable {r u v x y : Int}

theorem InDisc.symm (h : InDisc r u v) : InDisc r v u := by
  obtain ⟨hr, h⟩ := h
  exact ⟨hr, by rwa [and_comm, add_comm, max_comm]⟩

/-- Nearer to the vertical axis is still in the disc. -/
theorem InDisc.mono {u' : Int} (h : InDisc r u' v) (hu : 0 ≤ u) (hle : u ≤ u') : InDisc r u v := by
  obtain ⟨hr, ⟨rfl, rfl⟩ | h⟩ := h
  · exact ⟨hr, .inl ⟨le_antisymm hle hu, rfl⟩⟩
  · rcases hle.eq_or_lt with rfl | hlt
    · exact ⟨hr, .inr h⟩
    have hsquare : u * u + (u' - u) ≤ u' * u' := by nlinarith
    have hmax : max u' v ≤ max u v + (u' - u) := by omega
    exact ⟨hr, .inr (by omega)⟩

/-- The disc reaches to the radius on the horizontal axis. -/
theorem inDisc_zero_iff (hu : 0 ≤ u) : InDisc r u 0 ↔ u ≤ r := by
  constructor
  · rintro ⟨hr, ⟨rfl, -⟩ | h⟩
    · exact hr
    · rw [max_eq_left hu] at h
      by_contra hlt
      nlinarith
  · intro hle
    rcases hu.eq_or_lt with rfl | hpos
    · exact ⟨hle, .inl ⟨rfl, rfl⟩⟩
    · refine ⟨by omega, .inr ?_⟩
      rw [max_eq_left hu]
      nlinarith

/-- The disc has no row beyond the radius. -/
theorem InDisc.le_radius (h : InDisc r u v) (hu : 0 ≤ u) (hv : 0 ≤ v) : v ≤ r :=
  (inDisc_zero_iff hv).mp (h.mono le_rfl hu).symm

/-- A point of the arc right of the axis is in the disc. -/
theorem OnArc.inDisc (h : OnArc r x y) (hx : 0 < x) : InDisc r x y := by
  refine ⟨h.y_nonneg.trans h.y_le, .inr ?_⟩
  rcases le_or_gt x y with hle | hgt
  · rw [max_eq_right hle]
    exact h.strict (by omega) hle
  · rw [max_eq_left hgt.le]
    have := h.lower
    omega

/-- The point one row further out than a point of the arc is not in the disc. -/
theorem OnArc.not_inDisc (h : OnArc r x y) : ¬ InDisc r x (y + 1) := by
  rintro ⟨-, ⟨-, hy⟩ | hin⟩
  · have := h.y_nonneg
    omega
  · rw [max_eq_right h.x_le] at hin
    linarith [h.upper]

end disc

/-! ### The runs of the walk cover the disc -/

section runs

variable {r u v x y : Int} {n : Nat}

theorem inRun_cons {a b : Int} {es : List (Int × Int)} :
    InRun ((a, b) :: es) u v ↔ (v = b ∧ u ≤ a ∨ v = a ∧ u ≤ b) ∨ InRun es u v := by
  simp [InRun, or_and_right, exists_or]

theorem InRun.mono {u' : Int} {es : List (Int × Int)} (h : InRun es u' v) (hle : u ≤ u') : InRun es u v := by
  obtain ⟨a, b, hmem, hrun⟩ := h
  exact ⟨a, b, hmem, hrun.imp (And.imp_right hle.trans) (And.imp_right hle.trans)⟩

/-- From a point of the arc on, the walk's runs cover the rows of the disc up to that point's row, on which they may leave
out what lies under the point itself. -/
theorem inRun_walkFrom (h : OnArc r x y) (hfuel : y ≤ x + n) (hdisc : InDisc r u v) (hlo : x < v) (hhi : v ≤ y)
    (hnew : v = y → x < u) : InRun (walkFrom r n x y) u v := by
  induction n generalizing x y with
  | zero => omega
  | succ n ih =>
    have hlt : x < y := hlo.trans_le hhi
    have hnext := h.next hlt
    have hout : ¬ InDisc r (x + 1) (nextY r x y + 1) := hnext.not_inDisc
    have hx := h.x_nonneg
    have hy := hnext.y_nonneg
    have hle := nextY_le r x y
    have hge := le_nextY_add_one r x y
    rw [walkFrom_succ hlt, inRun_cons]
    by_cases hcol : v = x + 1
    · have hu : u ≤ nextY r x y := by
        by_contra hgt
        exact hout ((hcol ▸ hdisc).mono (by omega) (by omega)).symm
      exact .inl (.inr ⟨hcol, hu⟩)
    by_cases hrow : v = nextY r x y ∧ u ≤ x + 1
    · exact .inl (.inl hrow)
    have hhi' : v ≤ nextY r x y := by
      by_contra hgt
      have hv : v = nextY r x y + 1 := by omega
      exact hout ((hv ▸ hdisc).mono (by omega) (by omega))
    exact .inr (ih hnext (by omega) (by omega) hhi' (by omega))

/-- The walk's runs cover the disc outside the centre row. -/
theorem inRun_walk (hdisc : InDisc r u v) (hu : 0 ≤ u) (hv : 0 < v) : InRun (walk r) u v := by
  have hvr := hdisc.le_radius hu hv.le
  have hrun {u' : Int} (hdisc' : InDisc r u' v) (hnew : v = r → 0 < u') : InRun (walk r) u' v := by
    rw [walk_eq_walkFrom]
    exact inRun_walkFrom (OnArc.start (by omega)) (by omega) hdisc' hv hvr hnew
  by_cases hpole : v = r ∧ u = 0
  · obtain ⟨rfl, rfl⟩ := hpole
    -- the pole has a neighbour on its row, but for the radius 1
    rcases (show v = 1 ∨ 1 < v by omega) with rfl | hlt
    · exact ⟨1, 0, by decide, .inr ⟨rfl, le_rfl⟩⟩
    · have hnear : InDisc v 1 v := ⟨hv.le, .inr (by rw [max_eq_right hlt.le]; omega)⟩
      exact (hrun hnear fun _ => one_pos).mono zero_le_one
  · exact hrun hdisc (by omega)

theorem fillOffset_iff_inDisc (hu : 0 ≤ u) (hv : 0 ≤ v) : FillOffset r u v ↔ InDisc r u v := by
  constructor
  · rintro ⟨hr, ⟨rfl, hle⟩ | ⟨a, b, hmem, hrun⟩⟩
    · exact (inDisc_zero_iff hu).mpr hle
    · obtain ⟨ha, harc⟩ := onArc_of_mem_walk hr hmem
      rcases hrun with ⟨rfl, hle⟩ | ⟨rfl, hle⟩
      · exact (harc.inDisc ha).mono hu hle
      · exact (harc.inDisc ha).symm.mono hu hle
  · intro hdisc
    refine ⟨hu.trans (hdisc.symm.le_radius hv hu), ?_⟩
    rcases hv.eq_or_lt with rfl | hpos
    · exact .inl ⟨rfl, (inDisc_zero_iff hu).mp hdisc⟩
    · exact .inr (inRun_walk hdisc hu hpos)

end runs

/-! ### The outline and the symmetries -/

theorem CircleOffset.symm {r u v : Int} (h : CircleOffset r u v) : CircleOffset r v u := by
  obtain ⟨hr, h⟩ := h
  refine ⟨hr, ?_⟩
  tauto

/-- The outline is in the disc. -/
theorem CircleOffset.inDisc {r u v : Int} (h : CircleOffset r u v) : InDisc r u v := by
  obtain ⟨hr, ⟨rfl, rfl⟩ | ⟨rfl, rfl⟩ | hmem | hmem⟩ := h
  · exact ((inDisc_zero_iff hr).mpr le_rfl).symm
  · exact (inDisc_zero_iff hr).mpr le_rfl
  · obtain ⟨ha, harc⟩ := onArc_of_mem_walk hr hmem
    exact harc.inDisc ha
  · obtain ⟨ha, harc⟩ := onArc_of_mem_walk hr hmem
    exact (harc.inDisc ha).symm

section offsets

variable {x0 y0 r dx dy : Int}

theorem mem_circlePixels_add : (x0 + dx, y0 + dy) ∈ circlePixels x0 y0 r ↔ CircleOffset r dx.natAbs dy.natAbs :=
  mem_circlePixels (by simp) (by simp)

/-- FILLCIRCLE's pixels are the disc (R144). -/
theorem mem_fillcirclePixels_iff_inDisc {p : Pixel} :
    p ∈ fillcirclePixels x0 y0 r ↔ InDisc r (p.1 - x0).natAbs (p.2 - y0).natAbs :=
  (mem_fillcirclePixels rfl rfl).trans (fillOffset_iff_inDisc (by omega) (by omega))

theorem mem_fillcirclePixels_add : (x0 + dx, y0 + dy) ∈ fillcirclePixels x0 y0 r ↔ InDisc r dx.natAbs dy.natAbs := by
  rw [mem_fillcirclePixels_iff_inDisc, add_sub_cancel_left, add_sub_cancel_left]

/-- FILLCIRCLE's rows (R146): the central column meets each. -/
theorem exists_mem_fillcirclePixels_row :
    (∃ x, (x, y0 + dy) ∈ fillcirclePixels x0 y0 r) ↔ -r ≤ dy ∧ dy ≤ r := by
  constructor
  · rintro ⟨x, hx⟩
    have hle := (mem_fillcirclePixels_iff_inDisc.mp hx).le_radius (by omega) (by omega)
    omega
  · rintro ⟨hlo, hhi⟩
    have hcolumn : InDisc r (0 : Int).natAbs dy.natAbs := ((inDisc_zero_iff (by omega)).mpr (by omega)).symm
    exact ⟨x0 + 0, mem_fillcirclePixels_add.mpr hcolumn⟩

/-- Between two pixels of a row there is no gap (R146): one of the two is no nearer to the central column. -/
theorem mem_fillcirclePixels_of_between {a b c y : Int} (hab : a ≤ b) (hbc : b ≤ c)
    (ha : (a, y) ∈ fillcirclePixels x0 y0 r) (hc : (c, y) ∈ fillcirclePixels x0 y0 r) :
    (b, y) ∈ fillcirclePixels x0 y0 r := by
  rw [mem_fillcirclePixels_iff_inDisc] at ha hc ⊢
  rcases le_total b x0 with hleft | hright
  · exact ha.mono (by omega) (by omega)
  · exact hc.mono (by omega) (by omega)

end offsets

/-- Settles O46: the outline is in the disc. -/
theorem circleInsideFillcircle : Obligations.CircleInsideFillcircle := fun _ _ _ _ hp =>
  mem_fillcirclePixels_iff_inDisc.mpr ((mem_circlePixels rfl rfl).mp hp).inDisc

/-- Settles O47: the outline and the disc depend on the offsets without their signs and order, and the disc's rows are
symmetric runs. -/
theorem circleSymmetryAndRows : Obligations.CircleSymmetryAndRows := by
  intro x0 y0 r dx dy
  simp only [sub_eq_add_neg, mem_circlePixels_add, mem_fillcirclePixels_add, Int.natAbs_neg]
  exact ⟨fun h => ⟨h, h, h.symm⟩, fun h => ⟨h, h, h.symm⟩, exists_mem_fillcirclePixels_row,
    fun _ _ _ => mem_fillcirclePixels_of_between⟩

end Sys2Proof.Machine
end

section
/-!
PROOFS. The triangles (44_raster_triangles.md): TRIANGLE as three lines (R150), and FILLTRIANGLE's rows in closed form
and their independence of the order of the vertices (R151).
-/
namespace Sys2Proof.Machine

/-! ### TRIANGLE -/

theorem paint_append (s : State) (ps qs : List Pixel) (c : Colour) :
    s.paint (ps ++ qs) c = (s.paint ps c).paint qs c := by
  simp only [paint_eq, List.map_append, plotAll_append]

theorem mem_trianglePixels {x0 y0 x1 y1 x2 y2 : Int} {p : Pixel} : p ∈ trianglePixels x0 y0 x1 y1 x2 y2 ↔
    p ∈ linePixels x0 y0 x1 y1 ∨ p ∈ linePixels x1 y1 x2 y2 ∨ p ∈ linePixels x2 y2 x0 y0 := by
  simp only [trianglePixels, List.mem_append, or_assoc]

/-- TRIANGLE from FG is its three LINEs, each from the state the one before left (R150). -/
theorem exec_triangle_eq_lines (s : State) (x0 y0 x1 y1 x2 y2 : Int) :
    ∃ t u v, exec (.line x0 y0 x1 y1) s = .next t ∧ exec (.line x1 y1 x2 y2) t = .next u ∧
      exec (.line x2 y2 x0 y0) u = .next v ∧ exec (.triangle x0 y0 x1 y1 x2 y2) s = .next v := by
  refine ⟨_, _, _, rfl, rfl, rfl, ?_⟩
  change Host.Outcome.next (s.paint (trianglePixels x0 y0 x1 y1 x2 y2) s.fg) = _
  rw [trianglePixels, paint_append, paint_append]
  rfl

/-- Settles O52: an exchange of two vertices permutes the three sides and turns them round, which LINE ignores. -/
theorem triangleIsThreeLines : Obligations.TriangleIsThreeLines := by
  refine fun s x0 y0 x1 y1 x2 y2 => ⟨exec_triangle_eq_lines s x0 y0 x1 y1 x2 y2, fun p => ?_, fun p => ?_⟩
  · rw [mem_trianglePixels, mem_trianglePixels, linePixels_comm x1 y1 x0 y0, linePixels_comm x0 y0 x2 y2,
      linePixels_comm x2 y2 x1 y1, or_comm (a := p ∈ linePixels x2 y2 x0 y0)]
  · rw [mem_trianglePixels, mem_trianglePixels, linePixels_comm x0 y0 x2 y2, linePixels_comm x2 y2 x1 y1,
      linePixels_comm x1 y1 x0 y0, ← or_assoc, or_comm, or_comm (a := p ∈ linePixels x0 y0 x1 y1)]

/-! ### The rows of FILLTRIANGLE -/

theorem pspan_comm (a b y : Int) : pspan a b y = pspan b a y := by
  rw [pspan, pspan, min_comm, ← Int.natAbs_neg (b - a), neg_sub]

/-- The column in which the edge from `u` down to `v` meets row `y`, truncated toward the column of `u` (R151). -/
def edgeColumn (u v : Pixel) (y : Int) : Int := u.1 + ((v.1 - u.1) * (y - u.2)).tdiv (v.2 - u.2)

/-- The column in which row `y` meets the two edges through the middle vertex `p1` (R151). The row of `p1` is the lower
edge's, unless that edge is level. -/
def middleColumn (p0 p1 p2 : Pixel) (y : Int) : Int :=
  if y < p1.2 ∨ p1.2 = p2.2 then edgeColumn p0 p1 y else edgeColumn p1 p2 y

section rows

variable {p0 p1 p2 p : Pixel}

theorem middleColumn_upper {y : Int} (h : y < p1.2 ∨ p1.2 = p2.2) :
    middleColumn p0 p1 p2 y = edgeColumn p0 p1 y := if_pos h

theorem middleColumn_lower {y : Int} (h : p1.2 ≤ y) (hne : p1.2 ≠ p2.2) :
    middleColumn p0 p1 p2 y = edgeColumn p1 p2 y := if_neg (by omega)

/-- A loop of R151 is the runs between its two edges: its two sums are the edges' slopes times the rows since their
starts. -/
theorem mem_fillRows {u u' v v' : Pixel} {n : Nat} {y : Int} :
    p ∈ fillRows u.1 v.1 (u'.1 - u.1) (v'.1 - v.1) (u'.2 - u.2) (v'.2 - v.2) n y
        ((u'.1 - u.1) * (y - u.2)) ((v'.1 - v.1) * (y - v.2)) ↔
      (y ≤ p.2 ∧ p.2 < y + n) ∧ p ∈ pspan (edgeColumn u u' p.2) (edgeColumn v v' p.2) p.2 := by
  induction n generalizing y with
  | zero =>
    simp only [fillRows, List.not_mem_nil, false_iff]
    omega
  | succ n ih =>
    have hnext (d z : Int) : d * (y - z) + d = d * (y + 1 - z) := by ring
    rw [fillRows, hnext, hnext, List.mem_append, ih]
    by_cases hrow : p.2 = y
    · subst hrow
      simp [edgeColumn]
    · rw [or_iff_right (by simp [hrow])]
      exact and_congr_left fun _ => by omega

/-- The upper loop of R151 starts with both sums 0. -/
theorem mem_fillRows_start {n : Nat} :
    p ∈ fillRows p0.1 p0.1 (p1.1 - p0.1) (p2.1 - p0.1) (p1.2 - p0.2) (p2.2 - p0.2) n p0.2 0 0 ↔
      (p0.2 ≤ p.2 ∧ p.2 < p0.2 + n) ∧ p ∈ pspan (edgeColumn p0 p1 p.2) (edgeColumn p0 p2 p.2) p.2 := by
  simpa using mem_fillRows (u := p0) (u' := p1) (v := p0) (v' := p2) (n := n) (y := p0.2) (p := p)

theorem mem_fillSorted_level (h : p0.2 = p2.2) : p ∈ fillSorted p0 p1 p2 ↔
    p.2 = p0.2 ∧ min p0.1 (min p1.1 p2.1) ≤ p.1 ∧ p.1 ≤ max p0.1 (max p1.1 p2.1) := by
  rw [fillSorted, if_pos h, mem_hspan]
  omega

/-- The two loops of R151 cover each row once: the upper one has the rows above the middle vertex, and all rows where the
edge 1-2 is level. -/
theorem mem_fillSorted (h01 : p0.2 ≤ p1.2) (h12 : p1.2 ≤ p2.2) (h02 : p0.2 < p2.2) : p ∈ fillSorted p0 p1 p2 ↔
    (p0.2 ≤ p.2 ∧ p.2 ≤ p2.2) ∧ p ∈ pspan (middleColumn p0 p1 p2 p.2) (edgeColumn p0 p2 p.2) p.2 := by
  rw [fillSorted, if_neg h02.ne, List.mem_append]
  simp only [mem_fillRows_start, mem_fillRows]
  by_cases hupper : p.2 < p1.2 ∨ p1.2 = p2.2
  · rw [middleColumn_upper hupper, or_iff_left (by split_ifs <;> omega)]
    exact and_congr_left fun _ => by split_ifs <;> omega
  · rw [middleColumn_lower (by omega) (by omega), or_iff_right (by split_ifs <;> omega)]
    exact and_congr_left fun _ => by split_ifs <;> omega

/-! ### The order of the vertices -/

/-- Two vertices on the first row may be exchanged: the loop of R151 draws the two edges from them. -/
theorem mem_fillSorted_swap_top (h01 : p0.2 = p1.2) (h12 : p1.2 ≤ p2.2) :
    p ∈ fillSorted p0 p1 p2 ↔ p ∈ fillSorted p1 p0 p2 := by
  rcases h12.eq_or_lt with hlevel | hlt
  · rw [mem_fillSorted_level (h01.trans hlevel), mem_fillSorted_level hlevel]
    omega
  · rw [mem_fillSorted h01.le h12 (by omega), mem_fillSorted h01.ge (by omega) hlt, h01]
    refine and_congr_right fun hrow => ?_
    rw [middleColumn_lower hrow.1 hlt.ne, middleColumn_lower (by omega) (by omega), pspan_comm]

/-- Two vertices on the last row may be exchanged: the loop of R151 draws the two edges to them. -/
theorem mem_fillSorted_swap_bottom (h01 : p0.2 ≤ p1.2) (h12 : p1.2 = p2.2) :
    p ∈ fillSorted p0 p1 p2 ↔ p ∈ fillSorted p0 p2 p1 := by
  rcases h01.eq_or_lt with hlevel | hlt
  · rw [mem_fillSorted_level (hlevel.trans h12), mem_fillSorted_level hlevel]
    omega
  · rw [mem_fillSorted h01 h12.le (by omega), mem_fillSorted (by omega) h12.ge hlt, middleColumn_upper (.inr h12),
      middleColumn_upper (.inr h12.symm), pspan_comm, h12]

end rows

section sort

variable {p0 p1 p2 : Pixel}

theorem orderPair_of_le (h : p0.2 ≤ p1.2) : orderPair p0 p1 = (p0, p1) := if_neg h.not_gt

theorem orderPair_of_gt (h : p1.2 < p0.2) : orderPair p0 p1 = (p1, p0) := if_pos h

theorem orderPair_comm (h : p0.2 ≠ p1.2) : orderPair p0 p1 = orderPair p1 p0 := by
  rcases h.lt_or_gt with hlt | hgt
  · rw [orderPair_of_le hlt.le, orderPair_of_gt hlt]
  · rw [orderPair_of_gt hgt, orderPair_of_le hgt.le]

theorem sortVertices_of_le (h01 : p0.2 ≤ p1.2) (h12 : p1.2 ≤ p2.2) : sortVertices p0 p1 p2 = (p0, p1, p2) := by
  simp [sortVertices, orderPair_of_le, h01, h12]

/-- The last vertex goes above two that are in order. -/
theorem sortVertices_of_last_first (h01 : p0.2 ≤ p1.2) (h20 : p2.2 < p0.2) :
    sortVertices p0 p1 p2 = (p2, p0, p1) := by
  simp [sortVertices, orderPair_of_le h01, orderPair_of_gt h20, orderPair_of_gt (h20.trans_le h01)]

/-- The first vertex goes below two that are in order. -/
theorem sortVertices_of_first_last (h12 : p1.2 ≤ p2.2) (h20 : p2.2 < p0.2) :
    sortVertices p0 p1 p2 = (p1, p2, p0) := by
  simp [sortVertices, orderPair_of_gt (h12.trans_lt h20), orderPair_of_gt h20, orderPair_of_le h12]

theorem sortVertices_comm_left (h : p0.2 ≠ p1.2) : sortVertices p0 p1 p2 = sortVertices p1 p0 p2 := by
  rw [sortVertices, orderPair_comm h, sortVertices]

/-- The sort of R151 does not see an exchange of its last two vertices, unless they are on one row. -/
theorem sortVertices_comm_right (h : p1.2 ≠ p2.2) : sortVertices p0 p1 p2 = sortVertices p0 p2 p1 := by
  wlog hlt : p1.2 < p2.2 generalizing p1 p2
  · exact (this h.symm (by omega)).symm
  rcases le_or_gt p0.2 p1.2 with hfirst | hgt
  · simp [sortVertices, orderPair_of_le hfirst, orderPair_of_le hlt.le, orderPair_of_le (hfirst.trans hlt.le),
      orderPair_of_gt hlt]
  rcases le_or_gt p0.2 p2.2 with hmiddle | hlast
  · simp [sortVertices, orderPair_of_gt hgt, orderPair_of_le hmiddle, orderPair_of_gt hlt, orderPair_of_le hgt.le]
  · simp [sortVertices, orderPair_of_gt hgt, orderPair_of_gt hlast, orderPair_of_le hlt.le, orderPair_of_gt hlt]

end sort

section filltriangle

variable {x0 y0 x1 y1 x2 y2 : Int}

theorem filltrianglePixels_of_sort {v0 v1 v2 : Pixel} (h : sortVertices (x0, y0) (x1, y1) (x2, y2) = (v0, v1, v2)) :
    filltrianglePixels x0 y0 x1 y1 x2 y2 = fillSorted v0 v1 v2 := by
  rw [filltrianglePixels, h]

/-- An exchange of the first two vertices shows in the sort only where they share a row, and then it is one of two
neighbours on the first or on the last row. -/
theorem samePixels_filltriangle_swap_left :
    SamePixels (filltrianglePixels x0 y0 x1 y1 x2 y2) (filltrianglePixels x1 y1 x0 y0 x2 y2) := by
  intro p
  by_cases h01 : y0 = y1
  · rcases lt_or_ge y2 y0 with h2 | h2
    · rw [filltrianglePixels_of_sort (sortVertices_of_last_first h01.le h2),
        filltrianglePixels_of_sort (sortVertices_of_last_first h01.ge (h01 ▸ h2))]
      exact mem_fillSorted_swap_bottom h2.le h01
    · rw [filltrianglePixels_of_sort (sortVertices_of_le h01.le (h01 ▸ h2)),
        filltrianglePixels_of_sort (sortVertices_of_le h01.ge h2)]
      exact mem_fillSorted_swap_top h01 (h01 ▸ h2)
  · rw [filltrianglePixels, sortVertices_comm_left h01, filltrianglePixels]

/-- The same for the last two vertices. -/
theorem samePixels_filltriangle_swap_right :
    SamePixels (filltrianglePixels x0 y0 x1 y1 x2 y2) (filltrianglePixels x0 y0 x2 y2 x1 y1) := by
  intro p
  by_cases h12 : y1 = y2
  · rcases lt_or_ge y2 y0 with h0 | h0
    · rw [filltrianglePixels_of_sort (sortVertices_of_first_last h12.le h0),
        filltrianglePixels_of_sort (sortVertices_of_first_last h12.ge (h12 ▸ h0))]
      exact mem_fillSorted_swap_top h12 h0.le
    · rw [filltrianglePixels_of_sort (sortVertices_of_le (h12 ▸ h0) h12.le),
        filltrianglePixels_of_sort (sortVertices_of_le h0 h12.ge)]
      exact mem_fillSorted_swap_bottom (h12 ▸ h0) h12
  · rw [filltrianglePixels, sortVertices_comm_right h12, filltrianglePixels]

end filltriangle

/-- Settles O53: sorted vertices stay as they are, and the two loops draw the rows between the edges. -/
theorem filltriangleRows : Obligations.FilltriangleRows := by
  intro x0 y0 x1 y1 x2 y2 p h01 h12
  rw [filltrianglePixels_of_sort (sortVertices_of_le h01 h12)]
  refine ⟨fun h02 => mem_fillSorted_level h02, ?_⟩
  rintro h02 a b rfl rfl
  rw [mem_fillSorted h01 h12 h02, mem_pspan, and_assoc]
  exact and_congr_right fun _ => and_congr_right fun _ => and_iff_right rfl

/-- Settles O54: the two exchanges. -/
theorem filltriangleIgnoresVertexOrder : Obligations.FilltriangleIgnoresVertexOrder := fun _ _ _ _ _ _ =>
  ⟨samePixels_filltriangle_swap_left, samePixels_filltriangle_swap_right⟩

end Sys2Proof.Machine
end

section
/-!
PROOFS. The rounded rectangles (45_raster_roundrect.md): the clamped radius (R160), `CornerArc` and `CornerFill` for every
mask, ROUNDRECT and FILLROUNDRECT as sets of offsets from the top-left (R161, R162), and the inclusions (R163, R164).
-/
namespace Sys2Proof.Machine

/-! ### The clamped radius -/

section clampR

variable {w h r : Int}

theorem clampR_nonneg (w h r : Int) : 0 ≤ clampR w h r := le_max_left _ _

theorem two_mul_clampR_le_width (hw : 0 < w) (h r : Int) : 2 * clampR w h r ≤ w := by
  unfold clampR
  omega

theorem two_mul_clampR_le_height (hh : 0 < h) (w r : Int) : 2 * clampR w h r ≤ h := by
  unfold clampR
  omega

theorem clampR_of_nonpos (hr : r ≤ 0) : clampR w h r = 0 := max_eq_left (min_le_of_left_le hr)

theorem clampR_of_fits (hr : 0 ≤ r) (hfits : 2 * r ≤ min w h) : clampR w h r = r := by
  rw [clampR, min_eq_left (by omega), max_eq_right hr]

theorem clampR_of_too_large (hw : 0 < w) (hh : 0 < h) (hr : min w h / 2 ≤ r) : clampR w h r = min w h / 2 := by
  rw [clampR, min_eq_right hr, max_eq_right (by omega)]

end clampR

/-- Settles O48: the radius is at most half of either side, and is cut off nowhere else. -/
theorem clampedRadius : Obligations.ClampedRadius := fun w h r hw hh =>
  ⟨clampR_nonneg w h r, two_mul_clampR_le_width hw h r, two_mul_clampR_le_height hh w r, clampR_of_nonpos, clampR_of_fits,
    clampR_of_too_large hw hh⟩

/-! ### Corners for every mask -/

/-- The offsets outward from a corner's centre of the corner's arc: the walk and its mirror in the diagonal (R141). -/
def ArcOffset (r u v : Int) : Prop := (u, v) ∈ walk r ∨ (v, u) ∈ walk r

/-- A column, by its offset from the left centre, is on the run of half width `a` stretched to the right by `delta`. -/
def OnStretchedRun (delta a u : Int) : Prop := min (-a) (a + delta) ≤ u ∧ u ≤ max (-a) (a + delta)

/-- The offsets from the left centre, to the right and outward, of the runs of a half of `CornerFill` (R142). -/
def BandOffset (r delta u v : Int) : Prop :=
  ∃ a b, (a, b) ∈ walk r ∧ (v = b ∧ OnStretchedRun delta a u ∨ v = a ∧ OnStretchedRun delta b u)

section corners

variable {x0 y0 r delta : Int} {p : Pixel}

theorem arcOffset_iff {u v : Int} : ArcOffset r u v ↔ ∃ e ∈ walk r, (v, u) = e ∨ (u, v) = e := by
  simp only [ArcOffset, and_or_left, exists_or, exists_eq_right', or_comm]

theorem eq_sub_iff_sub_eq {c z a : Int} : c = z - a ↔ z - c = a := by omega

/-- A run about the left centre, stretched to the right. -/
theorem mem_pspan_stretched {a y : Int} :
    p ∈ pspan (x0 - a) (x0 + a + delta) y ↔ p.2 = y ∧ OnStretchedRun delta a (p.1 - x0) := by
  rw [mem_pspan, OnStretchedRun]
  omega

/-- `CornerArc` is one arc for each quadrant of its mask (R141). -/
theorem mem_cornerArc {m : BitVec 4} : p ∈ cornerArc x0 y0 r m ↔
    m.getLsbD 0 = true ∧ ArcOffset r (x0 - p.1) (y0 - p.2) ∨ m.getLsbD 1 = true ∧ ArcOffset r (p.1 - x0) (y0 - p.2) ∨
      m.getLsbD 2 = true ∧ ArcOffset r (p.1 - x0) (p.2 - y0) ∨ m.getLsbD 3 = true ∧ ArcOffset r (x0 - p.1) (p.2 - y0) := by
  simp only [cornerArc, List.mem_flatMap, List.mem_append, List.mem_ite_nil_right, List.mem_cons, List.not_mem_nil,
    or_false, arcOffset_iff, Prod.ext_iff, eq_sub_iff_sub_eq, ← sub_eq_iff_eq_add',
    and_or_left, exists_or, and_left_comm (a := _ ∈ walk r), exists_and_left]
  exact iff_of_eq (by ac_rfl)

/-- `CornerFill` is one band for each half of its mask (R142). -/
theorem mem_cornerFill {m : BitVec 2} : p ∈ cornerFill x0 y0 r m delta ↔
    m.getLsbD 0 = true ∧ BandOffset r delta (p.1 - x0) (y0 - p.2) ∨
      m.getLsbD 1 = true ∧ BandOffset r delta (p.1 - x0) (p.2 - y0) := by
  simp only [cornerFill, List.mem_flatMap, List.mem_append, List.mem_ite_nil_right, Prod.exists,
    mem_pspan_stretched, BandOffset, eq_sub_iff_sub_eq, ← sub_eq_iff_eq_add', and_or_left, exists_or,
    and_left_comm (a := _ ∈ walk r), exists_and_left]

end corners

/-! ### ROUNDRECT and FILLROUNDRECT as sets of offsets -/

/-- The offsets from the top-left of ROUNDRECT's pixels with the radius `c`: the inset edges, and the arcs of the four
corners by the offsets from either side (R161). -/
def RoundrectOffset (w h c u v : Int) : Prop :=
  (v = 0 ∨ v = h - 1) ∧ c ≤ u ∧ u < w - c ∨ (u = 0 ∨ u = w - 1) ∧ c ≤ v ∧ v < h - c ∨
    ∃ u' v', (u' = u ∨ u' = w - 1 - u) ∧ (v' = v ∨ v' = h - 1 - v) ∧ ArcOffset c (c - u') (c - v')

/-- The offsets from the top-left of FILLROUNDRECT's pixels with the radius `c`: the full rows, and the two bands by the
offset from the top or the bottom (R162). -/
def FillroundrectOffset (w h c u v : Int) : Prop :=
  0 ≤ u ∧ u < w ∧ c ≤ v ∧ v < h - c ∨
    ∃ v', (v' = v ∨ v' = h - 1 - v) ∧ BandOffset c (w - 2 * c - 1) (u - c) (c - v')

section offsets

variable {x y w h c : Int} {p : Pixel}

/-- A predicate at an offset from either side. -/
theorem exists_either_side {P : Int → Prop} {n u : Int} :
    (∃ u', (u' = u ∨ u' = n - 1 - u) ∧ P u') ↔ P u ∨ P (n - 1 - u) := by
  simp only [or_and_right, exists_or, exists_eq_left]

theorem mem_roundrectBody : p ∈ roundrectBody x y w h c ↔ RoundrectOffset w h c (p.1 - x) (p.2 - y) := by
  have hleft : x + c - p.1 = c - (p.1 - x) := by omega
  have hright : p.1 - (x + w - c - 1) = c - (w - 1 - (p.1 - x)) := by omega
  have htop : y + c - p.2 = c - (p.2 - y) := by omega
  have hbottom : p.2 - (y + h - c - 1) = c - (h - 1 - (p.2 - y)) := by omega
  have hedges : p ∈ hspan (x + c) y (w - 2 * c) ++ hspan (x + c) (y + h - 1) (w - 2 * c) ++
      vspan x (y + c) (h - 2 * c) ++ vspan (x + w - 1) (y + c) (h - 2 * c) ↔
      (p.2 - y = 0 ∨ p.2 - y = h - 1) ∧ c ≤ p.1 - x ∧ p.1 - x < w - c ∨
        (p.1 - x = 0 ∨ p.1 - x = w - 1) ∧ c ≤ p.2 - y ∧ p.2 - y < h - c := by
    simp only [List.mem_append, mem_hspan, mem_vspan]
    omega
  rw [RoundrectOffset, ← or_assoc, ← hedges, roundrectBody, List.mem_append, List.mem_append, List.mem_append,
    List.mem_append]
  simp only [mem_cornerArc, hleft, hright, htop, hbottom, exists_and_left, exists_either_side, BitVec.reduceGetLsb,
    Bool.false_eq_true, true_and, false_and, false_or, or_false]
  exact iff_of_eq (by ac_rfl)

theorem mem_fillroundrectBody : p ∈ fillroundrectBody x y w h c ↔ FillroundrectOffset w h c (p.1 - x) (p.2 - y) := by
  have hcolumn : p.1 - (x + c) = p.1 - x - c := by omega
  have htop : y + c - p.2 = c - (p.2 - y) := by omega
  have hbottom : p.2 - (y + h - c - 1) = c - (h - 1 - (p.2 - y)) := by omega
  have hrows : p ∈ fillrectPixels x (y + c) w (h - 2 * c) ↔
      0 ≤ p.1 - x ∧ p.1 - x < w ∧ c ≤ p.2 - y ∧ p.2 - y < h - c := by
    rw [mem_fillrectPixels]
    omega
  rw [FillroundrectOffset, ← hrows, exists_either_side, fillroundrectBody]
  simp [mem_cornerFill, hcolumn, htop, hbottom]

variable {r : Int}

/-- ROUNDRECT's pixels by their offsets from the top-left (R161). -/
theorem mem_roundrectPixels : p ∈ roundrectPixels x y w h r ↔
    0 < w ∧ 0 < h ∧ RoundrectOffset w h (clampR w h r) (p.1 - x) (p.2 - y) := by
  rw [roundrectPixels, List.mem_ite_nil_left, mem_roundrectBody, not_or, not_le, not_le, and_assoc]

/-- FILLROUNDRECT's pixels by their offsets from the top-left (R162). -/
theorem mem_fillroundrectPixels : p ∈ fillroundrectPixels x y w h r ↔
    0 < w ∧ 0 < h ∧ FillroundrectOffset w h (clampR w h r) (p.1 - x) (p.2 - y) := by
  rw [fillroundrectPixels, List.mem_ite_nil_left, mem_fillroundrectBody, not_or, not_le, not_le, and_assoc]

end offsets

/-- FILLROUNDRECT's bands by the columns from the left side. -/
theorem bandOffset_iff {w c u v : Int} : BandOffset c (w - 2 * c - 1) (u - c) (c - v) ↔ ∃ a b, (a, b) ∈ walk c ∧
    (v = c - b ∧ min (c - a) (w - 1 - c + a) ≤ u ∧ u ≤ max (c - a) (w - 1 - c + a) ∨
      v = c - a ∧ min (c - b) (w - 1 - c + b) ≤ u ∧ u ≤ max (c - b) (w - 1 - c + b)) := by
  refine exists_congr fun a => exists_congr fun b => and_congr_right fun _ => ?_
  simp only [OnStretchedRun]
  omega

/-- Settles O49: both pixel sets by their offsets from the top-left. -/
theorem roundrectsFromTheWalk : Obligations.RoundrectsFromTheWalk := by
  rintro x y w h r p u v c rfl rfl rfl
  refine ⟨mem_roundrectPixels, mem_fillroundrectPixels.trans ?_⟩
  simp only [FillroundrectOffset, bandOffset_iff]
  refine and_congr_right fun _ => and_congr_right fun _ => or_congr_right ?_
  exact ⟨fun ⟨v', hside, a, b, hmem, hrun⟩ => ⟨a, b, v', hmem, hside, hrun⟩,
    fun ⟨a, b, v', hmem, hside, hrun⟩ => ⟨v', hside, a, b, hmem, hrun⟩⟩

/-! ### The radius 0 -/

theorem cornerArc_zero (x0 y0 : Int) (m : BitVec 4) : cornerArc x0 y0 0 m = [] := rfl

theorem cornerFill_zero (x0 y0 : Int) (m : BitVec 2) (delta : Int) : cornerFill x0 y0 0 m delta = [] := rfl

section zeroRadius

variable {w h r : Int}

theorem roundrectPixels_of_clampR_eq_zero (x y : Int) (hr : clampR w h r = 0) :
    roundrectPixels x y w h r = rectPixels x y w h := by
  simp [roundrectPixels, roundrectBody, hr, cornerArc_zero, rectPixels]

theorem fillroundrectPixels_of_clampR_eq_zero (x y : Int) (hr : clampR w h r = 0) :
    fillroundrectPixels x y w h r = fillrectPixels x y w h := by
  have hbody : fillroundrectBody x y w h 0 = fillrectPixels x y w h := by simp [fillroundrectBody, cornerFill_zero]
  rw [fillroundrectPixels, hr, hbody]
  exact ite_eq_right_iff.mpr fun hempty => by rw [fillrectPixels, if_pos hempty]

end zeroRadius

/-- Settles O50: the corners are empty, and the spans that are left are those of the plain rectangle. -/
theorem zeroRadiusIsPlainRectangle : Obligations.ZeroRadiusIsPlainRectangle := by
  intro x y w h r hr
  rw [roundrectPixels_of_clampR_eq_zero x y hr, fillroundrectPixels_of_clampR_eq_zero x y hr]
  exact ⟨fun _ => Iff.rfl, fun _ => Iff.rfl⟩

/-! ### ROUNDRECT inside FILLROUNDRECT, and both inside the bounding box -/

section inclusions

variable {w h c u u' v delta : Int}

/-- The left arc and, `delta` columns further right, the right arc are the ends of the band's runs. -/
theorem ArcOffset.bandOffset (harc : ArcOffset c u v) (hend : u' = -u ∨ u' = u + delta) : BandOffset c delta u' v := by
  have hrun : OnStretchedRun delta u u' := by
    rw [OnStretchedRun]
    omega
  rcases harc with hmem | hmem
  · exact ⟨u, v, hmem, .inl ⟨rfl, hrun⟩⟩
  · exact ⟨v, u, hmem, .inr ⟨rfl, hrun⟩⟩

/-- The outermost row of a band has all columns between the two centres, as FILLCIRCLE's pole has its centre column. -/
theorem bandOffset_pole (hc : 0 < c) (hu : 0 ≤ u) (hle : u ≤ delta) : BandOffset c delta u c := by
  have hrun {a : Int} (ha : 0 ≤ a) : OnStretchedRun delta a u := by
    rw [OnStretchedRun]
    omega
  have hpole : InDisc c 0 c := ((inDisc_zero_iff hc.le).mpr le_rfl).symm
  obtain ⟨a, b, hmem, hab⟩ := inRun_walk hpole le_rfl hc
  exact ⟨a, b, hmem, hab.imp (And.imp_right hrun) (And.imp_right hrun)⟩

theorem RoundrectOffset.fillroundrectOffset (hw : 0 < w) (hh : 0 < h) (hc : 0 ≤ c)
    (hout : RoundrectOffset w h c u v) : FillroundrectOffset w h c u v := by
  obtain ⟨hrow, hlo, hhi⟩ | ⟨hcol, hlo, hhi⟩ | ⟨u', v', hu', hv', harc⟩ := hout
  · -- the top or the bottom edge: the bands' outermost rows, or full rows where there is no band
    rcases hc.eq_or_lt with rfl | hpos
    · exact .inl (by omega)
    · refine .inr ⟨0, by omega, ?_⟩
      rw [sub_zero]
      exact bandOffset_pole hpos (by omega) (by omega)
  · exact .inl (by omega)
  · exact .inr ⟨v', hv', harc.bandOffset (by omega)⟩

/-- A band is there for a positive radius only, and reaches from the centres as far as the radius, outward and to either
side. -/
theorem BandOffset.bounds (hc : 0 ≤ c) (hdelta : -1 ≤ delta) (hband : BandOffset c delta u v) :
    0 < c ∧ (-c ≤ u ∧ u ≤ c + delta) ∧ 0 ≤ v ∧ v ≤ c := by
  obtain ⟨a, b, hmem, hrun⟩ := hband
  obtain ⟨ha, harc⟩ := onArc_of_mem_walk hc hmem
  have hac : a ≤ c := (harc.inDisc ha).symm.le_radius harc.y_nonneg ha.le
  have hb := harc.y_nonneg
  have hbc := harc.y_le
  simp only [OnStretchedRun] at hrun
  omega

theorem FillroundrectOffset.inBox (hc : 0 ≤ c) (hw : 2 * c ≤ w) (hh : 2 * c ≤ h)
    (hfill : FillroundrectOffset w h c u v) : 0 ≤ u ∧ u < w ∧ 0 ≤ v ∧ v < h := by
  obtain hrows | ⟨v', hv', hband⟩ := hfill
  · omega
  · have hbounds := hband.bounds hc (by omega)
    omega

end inclusions

/-- Settles O51: the edges and arcs are ends or outermost rows of the fill's runs, which keep to the box. -/
theorem roundrectInsideFillroundrect : Obligations.RoundrectInsideFillroundrect := by
  intro x y w h r p
  rw [mem_roundrectPixels, mem_fillroundrectPixels]
  constructor
  · rintro ⟨hw, hh, hout⟩
    exact ⟨hw, hh, hout.fillroundrectOffset hw hh (clampR_nonneg w h r)⟩
  · rintro ⟨hw, hh, hfill⟩
    have hbox := hfill.inBox (clampR_nonneg w h r) (two_mul_clampR_le_width hw h r) (two_mul_clampR_le_height hh w r)
    omega

end Sys2Proof.Machine
end

section
/-!
PROOFS. The blit family (46_blit.md): the transform of R172 with its inverses and its range (R176, R177), and what BLIT
and BLITX draw (R174, R175).
-/
namespace Sys2Proof.Machine

/-! ### Undoing a rotation and a flip -/

/-- The rotation that undoes a rotation (R177). -/
def inverseRot : BitmapRot → BitmapRot
  | .r0 => .r0
  | .ccw => .cw
  | .r180 => .r180
  | .cw => .ccw

@[simp] theorem inverseRot_inverseRot (rot : BitmapRot) : inverseRot (inverseRot rot) = rot := by cases rot <;> rfl

/-- R177's pairs of a rotation and the one that undoes it. -/
theorem eq_inverseRot_of_mem {rot inv : BitmapRot}
    (h : (rot, inv) ∈ [(BitmapRot.r0, BitmapRot.r0), (.ccw, .cw), (.r180, .r180), (.cw, .ccw)]) :
    inv = inverseRot rot := by
  revert h
  cases rot <;> cases inv <;> decide

section transform

variable {c r w h : Int} {rot : BitmapRot} {flip : Flip}

/-- The transformed image's width, turned back. -/
@[simp] theorem xformW_inverseRot (w h : Int) (rot : BitmapRot) :
    xformW (xformW w h rot) (xformH w h rot) (inverseRot rot) = w := by cases rot <;> rfl

/-- The transformed image's height, turned back. -/
@[simp] theorem xformH_inverseRot (w h : Int) (rot : BitmapRot) :
    xformH (xformW w h rot) (xformH w h rot) (inverseRot rot) = h := by cases rot <;> rfl

/-- A rotation is undone by its inverse in the rotated frame (R177). -/
theorem rotateOffset_inverseRot (c r w h : Int) (rot : BitmapRot) :
    rotateOffset (rotateOffset c r w h rot).1 (rotateOffset c r w h rot).2 (xformW w h rot) (xformH w h rot)
      (inverseRot rot) = (c, r) := by
  cases rot <;> simp [rotateOffset, inverseRot, xformW, xformH]

/-- A flip is its own inverse (R177). -/
theorem flipOffset_flipOffset (p : Int × Int) (w h : Int) (flip : Flip) :
    flipOffset (flipOffset p w h flip) w h flip = p := by
  cases flip <;> simp [flipOffset, flipsH, flipsV]

theorem flipOffset_noflip (p : Int × Int) (w h : Int) : flipOffset p w h .noflip = p := rfl

theorem xform_noflip (c r w h : Int) (rot : BitmapRot) : xform c r w h rot .noflip = rotateOffset c r w h rot := rfl

theorem xform_r0 (c r w h : Int) (flip : Flip) : xform c r w h .r0 flip = flipOffset (c, r) w h flip := rfl

/-- The flip in the transformed frame leaves the rotation of a transform (R177). -/
theorem flipOffset_xform (c r w h : Int) (rot : BitmapRot) (flip : Flip) :
    flipOffset (xform c r w h rot flip) (xformW w h rot) (xformH w h rot) flip = rotateOffset c r w h rot :=
  flipOffset_flipOffset _ _ _ _

/-- Settles O58: the inverse of each rotation and flip, and of the two in turn. -/
theorem transformInverses : Obligations.TransformInverses := by
  intro c r w h rot inv flip
  refine ⟨rotateOffset_inverseRot c r w h .cw, rotateOffset_inverseRot c r w h .ccw,
    rotateOffset_inverseRot c r w h .r180, flipOffset_flipOffset (c, r) w h flip, ?_⟩
  rintro hinv _ _ rfl rfl
  obtain rfl := eq_inverseRot_of_mem hinv
  rw [xform_r0, flipOffset_xform, xform_noflip, rotateOffset_inverseRot]

/-! ### The transform as a bijection -/

/-- An offset in the rectangle `[0, w) x [0, h)` (R176). -/
def InRect (w h : Int) (p : Int × Int) : Prop := 0 ≤ p.1 ∧ p.1 < w ∧ 0 ≤ p.2 ∧ p.2 < h

theorem InRect.rotateOffset (hp : InRect w h (c, r)) (rot : BitmapRot) :
    InRect (xformW w h rot) (xformH w h rot) (rotateOffset c r w h rot) := by
  cases rot <;> simp only [InRect, Machine.rotateOffset, xformW, xformH] at hp ⊢ <;> omega

theorem InRect.flipOffset {p : Int × Int} (hp : InRect w h p) (flip : Flip) : InRect w h (flipOffset p w h flip) := by
  simp only [InRect, Machine.flipOffset] at hp ⊢
  split <;> split <;> omega

/-- The transform lands in the transformed rectangle (R176). -/
theorem InRect.xform (hp : InRect w h (c, r)) (rot : BitmapRot) (flip : Flip) :
    InRect (xformW w h rot) (xformH w h rot) (xform c r w h rot flip) := (hp.rotateOffset rot).flipOffset flip

/-- Different source offsets have different transforms: each is what undoing its transform gives (R176). -/
theorem xform_inj {c' r' : Int} (heq : xform c r w h rot flip = xform c' r' w h rot flip) : c = c' ∧ r = r' := by
  have hrot : rotateOffset c r w h rot = rotateOffset c' r' w h rot := by
    rw [← flipOffset_xform c r w h rot flip, heq, flipOffset_xform]
  have hsource : (c, r) = (c', r') := by
    rw [← rotateOffset_inverseRot c r w h rot, hrot, rotateOffset_inverseRot]
  exact Prod.mk.inj hsource

/-- Every offset of the rotated rectangle is a source offset's: of the one that the inverse rotation gives (R176). -/
theorem exists_rotateOffset_eq {p : Int × Int} (hp : InRect (xformW w h rot) (xformH w h rot) p) :
    ∃ c r, InRect w h (c, r) ∧ rotateOffset c r w h rot = p := by
  obtain ⟨X, Y⟩ := p
  have hsource := hp.rotateOffset (inverseRot rot)
  have hback := rotateOffset_inverseRot X Y (xformW w h rot) (xformH w h rot) (inverseRot rot)
  rw [xformW_inverseRot, xformH_inverseRot] at hsource hback
  rw [inverseRot_inverseRot] at hback
  exact ⟨_, _, hsource, hback⟩

/-- Every offset of the transformed rectangle is a source offset's transform: flipped back, it is a rotated one (R176). -/
theorem exists_xform_eq {p : Int × Int} (hp : InRect (xformW w h rot) (xformH w h rot) p) (flip : Flip) :
    ∃ c r, InRect w h (c, r) ∧ xform c r w h rot flip = p := by
  obtain ⟨c, r, hsource, hrot⟩ := exists_rotateOffset_eq (hp.flipOffset flip)
  exact ⟨c, r, hsource, by rw [xform, hrot, flipOffset_flipOffset]⟩

end transform

/-- Settles O57: the transform keeps to the rectangle and is undone on either side. -/
theorem transformIsBijection : Obligations.TransformIsBijection := by
  intro w h rot flip _ _
  refine ⟨fun c r hc hcw hr hrh => ?_, fun _ _ _ _ heq => xform_inj heq, fun X Y hX hXw hY hYh => ?_⟩
  · exact InRect.xform (c := c) (r := r) ⟨hc, hcw, hr, hrh⟩ rot flip
  · obtain ⟨c, r, ⟨hc, hcw, hr, hrh⟩, heq⟩ := exists_xform_eq (p := (X, Y)) ⟨hX, hXw, hY, hYh⟩ flip
    exact ⟨c, r, hc, hcw, hr, hrh, heq⟩

/-! ### What a blit draws -/

/-- The bit a list of `Plot` calls leaves when all calls that land on it have the one colour `col`, or, where `col` is
none, no call does. -/
theorem plotAll_fbBit_eq_getD {s : State} {ps : List (Pixel × Colour)} {i b : Nat} {col : Option Colour}
    (hall : ∀ p ∈ ps, mapPixel s.cfg p.1.1 p.1.2 = some (i, b) → col = some p.2)
    (hhit : col.isSome → ∃ p ∈ ps, mapPixel s.cfg p.1.1 p.1.2 = some (i, b)) :
    (s.plotAll ps).fbBit i b = col.getD (s.fbBit i b) := by
  cases col with
  | none => exact plotAll_fbBit_of_not_hit s ps i b fun p hp hm => nomatch hall p hp hm
  | some k => exact plotAll_fbBit_of_hit s ps i b k (fun p hp hm => (Option.some.inj (hall p hp hm)).symm) (hhit rfl)

/-- A source pixel's colour over what its destination holds (R175). -/
theorem blitColour_getD (fg : Colour) (bg : Option Colour) (bit old : Bool) :
    (blitColour fg bg bit).getD old = if bit then fg else bg.getD old := by cases bit <;> rfl

section blit

variable {s : State} {x y w h : Int} {addr : Nat} {rot : BitmapRot} {flip : Flip}

/-- The `Plot` calls of a blit: one for each source pixel that has a colour, at its destination (R175). -/
theorem mem_blitPlots {q : Pixel × Colour} :
    q ∈ blitPlots s x y w h addr rot flip ↔ ∃ c r : Nat, (c : Int) < w ∧ (r : Int) < h ∧
      blitColour s.fg s.bg (s.srcBit (c * h.toNat + r) addr w.toNat c r) = some q.2 ∧
      (x + (xform c r w h rot flip).1, y + (xform c r w h rot flip).2) = q.1 := by
  obtain ⟨p, col⟩ := q
  by_cases hempty : w ≤ 0 ∨ h ≤ 0
  · rw [blitPlots, if_pos hempty]
    refine iff_of_false List.not_mem_nil ?_
    rintro ⟨c, r, hc, hr, -⟩
    omega
  · rw [blitPlots, if_neg hempty]
    simp only [List.mem_flatMap, List.mem_filterMap, List.mem_range, Int.lt_toNat, Option.map_eq_some_iff,
      Prod.mk.injEq]
    constructor
    · rintro ⟨c, hc, r, hr, _, hcol, hdest, rfl⟩
      exact ⟨c, r, hc, hr, hcol, hdest⟩
    · rintro ⟨c, r, hc, hr, hcol, hdest⟩
      exact ⟨c, hc, r, hr, col, hcol, hdest, rfl⟩

/-- Two source pixels do not share a destination bit: neither `Map` nor the transform takes two points to one. -/
theorem source_unique_of_mapPixel {cfg : Config} {c r c' r' : Nat} {i b : Nat}
    (hm : mapPixel cfg (x + (xform c r w h rot flip).1) (y + (xform c r w h rot flip).2) = some (i, b))
    (hm' : mapPixel cfg (x + (xform c' r' w h rot flip).1) (y + (xform c' r' w h rot flip).2) = some (i, b)) :
    c = c' ∧ r = r' := by
  obtain ⟨_, _, _, _, _, hinj, _⟩ := mapIsBijection cfg
  obtain ⟨hX, hY⟩ := hinj _ _ _ _ _ hm hm'
  obtain ⟨hc, hr⟩ := xform_inj (Prod.ext (add_left_cancel hX) (add_left_cancel hY))
  exact ⟨Int.ofNat_inj.mp hc, Int.ofNat_inj.mp hr⟩

/-- A source pixel's destination bit takes its colour, if it has one (R175). -/
theorem blitPlots_fbBit_of_source {c r i b : Nat} (hc : (c : Int) < w) (hr : (r : Int) < h)
    (hm : mapPixel s.cfg (x + (xform c r w h rot flip).1) (y + (xform c r w h rot flip).2) = some (i, b)) :
    (s.plotAll (blitPlots s x y w h addr rot flip)).fbBit i b =
      (blitColour s.fg s.bg (s.srcBit (c * h.toNat + r) addr w.toNat c r)).getD (s.fbBit i b) := by
  refine plotAll_fbBit_eq_getD (fun q hq hm' => ?_) fun hsome => ?_
  · obtain ⟨c', r', _, _, hcol, hdest⟩ := mem_blitPlots.mp hq
    rw [← hdest] at hm'
    obtain ⟨rfl, rfl⟩ := source_unique_of_mapPixel hm hm'
    exact hcol
  · obtain ⟨col, hcol⟩ := Option.isSome_iff_exists.mp hsome
    exact ⟨(_, col), mem_blitPlots.mpr ⟨c, r, hc, hr, hcol, rfl⟩, hm⟩

/-- A bit that is no source pixel's destination reads as before (R175). -/
theorem blitPlots_fbBit_of_no_source {i b : Nat}
    (hno : ∀ c r : Nat, (c : Int) < w → (r : Int) < h →
      mapPixel s.cfg (x + (xform c r w h rot flip).1) (y + (xform c r w h rot flip).2) ≠ some (i, b)) :
    (s.plotAll (blitPlots s x y w h addr rot flip)).fbBit i b = s.fbBit i b := by
  refine plotAll_fbBit_of_not_hit s _ i b fun q hq => ?_
  obtain ⟨c, r, hc, hr, _, hdest⟩ := mem_blitPlots.mp hq
  rw [← hdest]
  exact hno c r hc hr

end blit

theorem exec_blitx (s : State) (x y w h : Int) (addr : Nat) (rot : BitmapRot) (flip : Flip) :
    exec (.blitx x y w h addr rot flip) s = .next (s.plotAll (blitPlots s x y w h addr rot flip)) := rfl

/-- BLIT is BLITX with no rotation and no flip (R174). -/
theorem exec_blit (s : State) (x y w h : Int) (addr : Nat) :
    exec (.blit x y w h addr) s = exec (.blitx x y w h addr .r0 .noflip) s := rfl

/-- Settles O59: the destination bits, each with its one source pixel, and the other bits. -/
theorem blitxDrawsSource : Obligations.BlitxDrawsSource := by
  intro s x y w h addr rot flip
  refine ⟨_, exec_blitx s x y w h addr rot flip, plotAll_only s _, fun c r i b hc hr hm => ?_,
    fun i b hno => blitPlots_fbBit_of_no_source hno⟩
  rw [blitPlots_fbBit_of_source hc hr hm, blitColour_getD, State.srcBit]

/-- Settles O60: BLITX at the transform that is the identity. -/
theorem blitDrawsSource : Obligations.BlitDrawsSource := by
  intro s x y w h addr
  obtain ⟨t, hexec, hdraws⟩ := blitxDrawsSource s x y w h addr .r0 .noflip
  simp only [xform_r0, flipOffset_noflip] at hdraws
  exact ⟨t, (exec_blit s x y w h addr).trans hexec, hexec, hdraws⟩

/-- Settles O56: each rotation and each flip read off its definition. -/
theorem transformTable : Obligations.TransformTable := by
  intro c r w h rot
  refine ⟨rfl, rfl, rfl, rfl, rfl, rfl, rfl, ?_, ?_⟩
  · rintro (rfl | rfl) <;> exact ⟨rfl, rfl⟩
  · rintro (rfl | rfl) <;> exact ⟨rfl, rfl⟩

end Sys2Proof.Machine
end

section
/-!
PROOFS. The colour family (47_color.md): SETFG and SETFGBG (R180, R181), and which commands read FG and BG (R182).
-/
namespace Sys2Proof.Machine

/-! ### The colour commands -/

theorem exec_setfg (s : State) (fg : Colour) : exec (.setfg fg) s = .next (s.setColours fg none) := rfl

theorem exec_setfgbg (s : State) (fg bg : Colour) : exec (.setfgbg fg bg) s = .next (s.setColours fg (some bg)) := rfl

/-- COLOR while BG is not NONE (R30): bit 1 is set in both colours of FG. -/
theorem colorWord_some (fg bg : Colour) :
    colorWord fg (some bg) = (if fg then 3 else 2) ||| (if bg then 4 else 0) := by
  cases fg <;> cases bg <;> decide

/-- Settles O32: both commands are one update of the colours, which COLOR then shows. -/
theorem colourCommands : Obligations.ColourCommands := by
  intro s fg bg
  refine ⟨exec_setfg s fg, exec_setfgbg s fg bg, fun t ht => ?_⟩
  rw [exec_setfgbg] at ht
  cases ht
  exact colorWord_some fg bg

/-! ### Which commands read the colours -/

section colourReaders

variable (s : State) (fg : Colour) (bg : Option Colour)

theorem exec_clear_setColours :
    exec .clear (s.setColours fg bg) = .next ((s.setFb (zeros (fbBytes s.cfg))).setColours fg bg) := rfl

theorem exec_getpixel_setColours (x y : Int) :
    exec (.getpixel x y) (s.setColours fg bg) =
      .next ((s.setResult (resultWord (s.pixelRead x y))).setColours fg bg) := rfl

theorem paint_setColours (ps : List Pixel) (c : Colour) :
    (s.setColours fg bg).paint ps c = (s.paint ps c).setColours fg bg := rfl

end colourReaders

/-- CLEAR and GETPIXEL read neither colour (R182): another Draw Color State only rides along. -/
theorem exec_setColours_of_clear_or_getpixel {i : Instr} {s t : State} (hop : i.op = .clear ∨ i.op = .getpixel)
    (h : exec i s = .next t) (fg : Colour) (bg : Option Colour) :
    exec i (s.setColours fg bg) = .next (t.setColours fg bg) := by
  cases i
  case clear => cases h; exact exec_clear_setColours s fg bg
  case getpixel x y => cases h; exact exec_getpixel_setColours s fg bg x y
  all_goals exact hop.elim nofun nofun

/-- Only the colour commands write FG (R24). -/
theorem exec_fg_of_op_ne {i : Instr} {s t : State} (h : exec i s = .next t) (hfg : i.op ≠ .setfg)
    (hfgbg : i.op ≠ .setfgbg) : t.fg = s.fg := by
  rcases exec_colours h with ⟨hkept, _⟩ | ⟨_, rfl⟩ | ⟨_, _, rfl⟩
  · exact hkept
  · exact absurd rfl hfg
  · exact absurd rfl hfgbg

/-- Every other command but the blits is `Plot` in FG for pixels that do not depend on the state (R124). -/
theorem exec_eq_paint_or_clear_or_getpixel {i : Instr} (hfg : i.op ≠ .setfg) (hfgbg : i.op ≠ .setfgbg)
    (hblit : i.op ≠ .blit) (hblitx : i.op ≠ .blitx) :
    (∃ ps, ∀ s, exec i s = .next (s.paint ps s.fg)) ∨ i.op = .clear ∨ i.op = .getpixel := by
  cases i
  case setfg => exact absurd rfl hfg
  case setfgbg => exact absurd rfl hfgbg
  case blit => exact absurd rfl hblit
  case blitx => exact absurd rfl hblitx
  case clear => exact .inr (.inl rfl)
  case getpixel => exact .inr (.inr rfl)
  all_goals exact .inl ⟨_, fun _ => rfl⟩

/-- Settles O36: painting in FG does not read BG, and CLEAR and GETPIXEL read neither colour. -/
theorem coloursReadByCommands : Obligations.ColoursReadByCommands := by
  intro i s t fg bg h
  refine ⟨fun hfg hfgbg hblit hblitx => ?_, fun hop => exec_setColours_of_clear_or_getpixel hop h fg bg⟩
  rcases exec_eq_paint_or_clear_or_getpixel hfg hfgbg hblit hblitx with ⟨ps, hps⟩ | hop
  · obtain rfl : s.paint ps s.fg = t := by simpa [hps] using h
    calc exec i (s.setColours s.fg bg) = .next ((s.setColours s.fg bg).paint ps s.fg) := hps _
      _ = .next ((s.paint ps s.fg).setColours s.fg bg) := by rw [paint_setColours]
  · calc exec i (s.setColours s.fg bg) = .next (t.setColours s.fg bg) :=
          exec_setColours_of_clear_or_getpixel hop h s.fg bg
      _ = .next (t.setColours t.fg bg) := by rw [exec_fg_of_op_ne h hfg hfgbg]

end Sys2Proof.Machine
end

section
/-!
PROOFS. Exceptions, reset and hazards (60_exceptions.md, 70_reset_and_hazards.md): the machine goes on (R189), HALTED
until reset (R192, R193), the configuration is fixed (R213), a held write completes (R231), degenerate shapes (R125).
-/
namespace Sys2Proof.Machine

/-! ### The machine goes on -/

/-- Every command completes, on every state and every operand value (R189). -/
theorem exec_completes (i : Instr) (s : State) : ∃ t, exec i s = .next t := by
  cases i <;> exact ⟨_, rfl⟩

/-- While a command executes, PKT holds a legal complete packet (R31, R32). -/
theorem Inv.exists_fetchCommand {s : State} (h : Inv s) (hx : s.phase = .executing) : ∃ i, fetchCommand s = some i := by
  rcases phaseOk_iff.mp h.phaseOk with ⟨hp, _⟩ | ⟨hp, _⟩ | ⟨_, hsome, _⟩ | ⟨hp, _⟩
  · exact nomatch hp.symm.trans hx
  · exact nomatch hp.symm.trans hx
  · exact Option.isSome_iff_exists.mp hsome
  · exact nomatch hp.symm.trans hx

/-- The engine's turn raises no fault under the invariant (log 15): its command runs to its finish event. -/
theorem runCommand_completes_of_inv {s : State} (h : Inv s) (hx : s.phase = .executing) :
    ∃ i u, fetchCommand s = some i ∧ exec i s = .next u ∧ runCommand s = .next (finishCommand u) := by
  obtain ⟨i, hi⟩ := h.exists_fetchCommand hx
  obtain ⟨u, hu⟩ := exec_completes i s
  exact ⟨i, u, hi, hu, by simp [runCommand, hi, hu]⟩

/-- Settles O4: the engine's turn completes its command or has nothing to do; every other turn answers in any state. -/
theorem stepAlwaysGoesOn : Obligations.StepAlwaysGoesOn := by
  intro s hs
  unfold step
  cases (nextTurn s).1 with
  | engine =>
    by_cases hx : (nextTurn s).2.phase = .executing
    · obtain ⟨_, u, _, _, hrun⟩ := runCommand_completes_of_inv hs.nextTurn hx
      exact ⟨finishCommand u, (if_pos hx).trans hrun⟩
    · exact ⟨(nextTurn s).2, if_neg hx⟩
  | host | observer | transport | reset | source => exact ⟨_, rfl⟩

/-! ### HALTED -/

/-- In HALTED the host's turn changes only its accesses, the held write and the last answer (R192). -/
theorem sameEngine_hostTurn_of_halted {s : State} (hp : s.phase = .halted) : SameEngine s (hostTurn s) := by
  rcases hostTurn_cases s with ⟨h, _⟩ | ⟨w, _, _, h⟩ | ⟨_, _, _, _, h⟩ | ⟨_, _, _, _, _, h⟩ | ⟨w, _, _, _, _, h⟩ |
    ⟨_, _, _, _, _, _, h⟩ <;> rw [h]
  · constructor <;> rfl
  · rw [onCmdWord_of_halted w (by exact hp)]; constructor <;> rfl
  · constructor <;> rfl
  · constructor <;> rfl
  · rw [onCmdWord_of_halted w (by exact hp)]; constructor <;> rfl
  · constructor <;> rfl

/-- In HALTED every turn but reset leaves the engine as it is (R192, R193). -/
theorem sameEngine_step_of_halted {s t : State} (hp : s.phase = .halted) (h : step s = .next t)
    (hne : (nextTurn s).1 ≠ .reset) : SameEngine s t := by
  rcases step_engine_cases h with ⟨_, _, ⟨_, hx, _⟩, _, _⟩ | ⟨_, rfl⟩ | ⟨hturn, _⟩ | hsame
  · exact nomatch hp.symm.trans hx
  · exact (sameEngine_nextTurn s).trans (sameEngine_hostTurn_of_halted (by rw [nextTurn_phase, hp]))
  · exact absurd hturn hne
  · exact hsame

/-- In HALTED a write to CMD completes in the turn that makes it, and its word is discarded (R192). -/
theorem hostTurn_of_cmd_write_halted {s : State} {w : Word} {rest : List HostAccess} (hp : s.phase = .halted)
    (hheld : s.held = none) (hh : s.host = .write 0 w :: rest) : hostTurn s = { s with host := rest } := by
  have hx : s.phase ≠ .executing := by rw [hp]; decide
  rw [hostTurn_of_write hheld hh, hostWrite_cmd_of_ready w (by exact hx), onCmdWord_of_halted w (by exact hp)]

@[simp] theorem nextTurn_portByte (s : State) (i : Nat) : (nextTurn s).2.portByte i = s.portByte i := by
  simp [State.portByte]

/-- Settles O6: the turns that leave the engine alone, then the host's, the transport's and the reset turn. -/
theorem haltedUntilReset : Obligations.HaltedUntilReset := by
  intro s t hp h
  have hp' : (nextTurn s).2.phase = .halted := by rw [nextTurn_phase, hp]
  refine ⟨sameEngine_step_of_halted hp h, fun hturn hheld w rest hhost => ?_, fun i hturn => ?_, fun hturn => ?_⟩
  · obtain rfl := Host.Outcome.next.inj ((step_of_host hturn).symm.trans h)
    rw [hostTurn_of_cmd_write_halted hp' (by simpa using hheld) (by simpa using hhost)]
    exact ⟨rfl, by simpa using hheld⟩
  · obtain rfl := Host.Outcome.next.inj ((step_of_transport hturn).symm.trans h)
    rw [transportRead_portAnswer_of_ready (by rw [hp']; decide), nextTurn_portByte]
  · obtain rfl := Host.Outcome.next.inj ((step_of_reset hturn).symm.trans h)
    exact ⟨rfl, rfl, rfl⟩

/-! ### The configuration -/

@[simp] theorem hostTurn_cfg (s : State) : (hostTurn s).cfg = s.cfg := by rw [hostTurn_frame]

theorem exec_cfg {i : Instr} {s t : State} (h : exec i s = .next t) : t.cfg = s.cfg := by rw [exec_frame h]

/-- No step changes the configuration (R213). -/
theorem step_cfg {s t : State} (h : step s = .next t) : t.cfg = s.cfg := by
  rcases step_engine_cases h with ⟨_, u, _, hu, rfl⟩ | ⟨_, rfl⟩ | ⟨_, rfl⟩ | hsame
  · rw [finishCommand_cfg, exec_cfg hu, nextTurn_cfg]
  · rw [hostTurn_cfg, nextTurn_cfg]
  · rw [hardReset_cfg, nextTurn_cfg]
  · exact hsame.cfg

/-- Settles O5: CFG_DIM and CFG_MODE are functions of the configuration, which no step changes. -/
theorem configurationIsFixed : Obligations.ConfigurationIsFixed := fun _ _ h =>
  ⟨step_cfg h, congrArg cfgDimWord (step_cfg h), congrArg cfgModeWord (step_cfg h)⟩

/-! ### The held write -/

theorem exec_held {i : Instr} {s t : State} (h : exec i s = .next t) : t.held = s.held := by rw [exec_frame h]

theorem exec_turns {i : Instr} {s t : State} (h : exec i s = .next t) : t.turns = s.turns := by rw [exec_frame h]

@[simp] theorem onCmdWord_held (w : Word) (s : State) : (onCmdWord w s).held = s.held := by rw [onCmdWord_frame]

/-- With nobody else acting and no command running, a held write goes to the packet decoder in one step (R29). -/
theorem step_of_held {s : State} {w : Word} (ht : s.turns = []) (hx : s.phase ≠ .executing) (hheld : s.held = some w) :
    step s = .next (onCmdWord w { s with held := none }) := by
  have hn := nextTurn_of_ready ht hx
  rw [step_of_host (by rw [hn]), hn, hostTurn_of_held_ready hheld hx]

/-- Settles O24: the engine's step finishes the command, and the host's next step delivers the held word. -/
theorem heldWriteCompletes : Obligations.HeldWriteCompletes := by
  intro s w hs hx hheld hturns
  obtain ⟨i, u, hi, hu, _⟩ := runCommand_completes_of_inv hs hx
  have hheld' : (finishCommand u).held = some w := by rw [finishCommand_held, exec_held hu, hheld]
  have hturns' : (finishCommand u).turns = [] := by rw [finishCommand_turns, exec_turns hu, hturns]
  exact ⟨finishCommand u, step_of_executing hturns hx hi hu, rfl, hheld', step_of_held hturns' nofun hheld',
    onCmdWord_held w _⟩

/-! ### Degenerate shapes -/

/-- Painting pixels that are all out of bounds changes nothing (R125). -/
theorem paint_of_not_inBounds {s : State} {ps : List Pixel} (h : ∀ p ∈ ps, inBounds s.cfg p.1 p.2 = false)
    (c : Colour) : s.paint ps c = s := by
  induction ps with
  | nil => rfl
  | cons p ps ih =>
    rw [List.forall_mem_cons] at h
    obtain ⟨hp, hps⟩ := h
    calc s.paint (p :: ps) c = (s.plot p.1 p.2 c).paint ps c := paint_append s [p] ps c
      _ = s.paint ps c := by rw [plot_of_invalid (mapPixel_of_not_inBounds hp)]
      _ = s := ih hps

/-- A command whose list of `Plot` calls is empty completes and changes nothing. -/
theorem exec_eq_self_of_plots_nil {i : Instr} {s : State} {ps : List (Pixel × Colour)}
    (h : exec i s = .next (s.plotAll ps)) (hps : ps = []) : exec i s = .next s := by
  rw [h, hps, plotAll_nil]

/-- A drawing command with an empty pixel set completes and changes nothing (R124). -/
theorem exec_eq_self_of_pixels_nil {i : Instr} {s : State} {ps : List Pixel}
    (h : exec i s = .next (s.paint ps s.fg)) (hps : ps = []) : exec i s = .next s :=
  exec_eq_self_of_plots_nil h (by rw [hps, List.map_nil])

/-- Settles O38: a degenerate shape has no pixels, and an out-of-bounds pixel is not written. -/
theorem degenerateShapesDrawNothing : Obligations.DegenerateShapesDrawNothing := by
  intro s x y w h r addr rot flip
  refine ⟨fun hempty => ⟨?rect, ?fillrect, ?roundrect, ?fillroundrect, ?blit, ?blitx⟩,
    fun hr => ⟨?circle, ?fillcircle⟩, fun hout => ?setpixel, fun ps c hout => paint_of_not_inBounds hout c⟩
  case rect | fillrect | roundrect | fillroundrect => exact exec_eq_self_of_pixels_nil rfl (if_pos hempty)
  case blit | blitx => exact exec_eq_self_of_plots_nil rfl (if_pos hempty)
  case circle | fillcircle => exact exec_eq_self_of_pixels_nil rfl (if_pos hr)
  case setpixel => rw [exec_setpixel, plot_of_invalid (mapPixel_of_not_inBounds hout)]

end Sys2Proof.Machine
end
